-- ==== Sys2Proof/Word.lean ====
section
/-! DEFINITION. The word types of the CHIP-8 core (rule R5, rule R13): bytes, 16-bit words, 12-bit
address operands, and the index of a general register. -/

namespace Sys2Proof

/-- An 8-bit unsigned value: a general register, a timer or a byte of memory (rule R5, rule R30). -/
abbrev Byte := BitVec 8

/-- A 16-bit unsigned value: I, pc, a stack entry or an instruction word (rule R5). -/
abbrev Word := BitVec 16

/-- The 12-bit address operand NNN of an instruction (rule R101). -/
abbrev Addr := BitVec 12

/-- The number of a general register, V0 to VF (rule R30). -/
abbrev RegIdx := Fin 16

/-- VF, element 15 of the one register array; it has no type of its own (rule R31). -/
abbrev vf : RegIdx := 15

end Sys2Proof
end

