-- ==== Sys2Proof/Config.lean ====
section
/-! DEFINITION. What an implementation fixes (the parameters of rules R6 to R11) and the two oracles
of rule R12. The parameters are a plain record that State carries and no step changes, so that a
statement about every state is a statement about every value of every parameter
(notes/assumptions/1.md). The oracles are opaque: nothing can be proved of a value they give. -/

namespace Sys2Proof

/-- `SHL_FLAG` (rule R8): which VF result shift-left has (rule R191). -/
inductive ShlFlag where
  /-- VF is bit 7 of VX before the shift (the default). -/
  | msb
  /-- VF is 1 exactly when a bit of the low nibble of VX was set. -/
  | lowNibble
deriving DecidableEq, Repr

/-- `FLAG_ORDER` (rule R10): what 8XY4 to 8XY8 and 8XYE leave in VF when X = F or Y = F (rule R180). -/
inductive FlagOrder where
  /-- Operands read first, then VF written, then VX (the default). -/
  | snapshotFlagFirst
  /-- Operands read first, then VX written, then VF. -/
  | snapshotFlagLast
  /-- VF written, then the operands read again, then VX written. -/
  | sequential
deriving DecidableEq, Repr

/-- The implementation parameters of 00_scope.md section 4. -/
structure Config where
  /-- `SCREEN_W` (rule R6). -/
  screenW : Nat
  /-- `SCREEN_H` (rule R6). -/
  screenH : Nat
  /-- `TIMERS_IN_STEP` (rule R7). -/
  timersInStep : Bool
  /-- `SHL_FLAG` (rule R8). -/
  shlFlag : ShlFlag
  /-- `SHL_ALIAS_E` (rule R9). -/
  shlAliasE : Bool
  /-- `FLAG_ORDER` (rule R10). -/
  flagOrder : FlagOrder
  /-- `FONT`, the 80 bytes at 0x000-0x04F after reset (rule R11). -/
  font : Vector Byte 80
deriving DecidableEq, Repr

/-- The legal parameter values: `SCREEN_W ≥ 1` and `SCREEN_H ≥ 1` (rule R6). -/
abbrev Config.wf (c : Config) : Prop := 1 ≤ c.screenW ∧ 1 ≤ c.screenH

/-- The default value of `FONT`, the table of rule R343 (DESIGN CHOICE of the spec's decision D16,
notes/assumptions/2.md). -/
def Config.standardFont : Vector Byte 80 :=
  (#v[0xF0, 0x90, 0x90, 0x90, 0xF0,  0x20, 0x60, 0x20, 0x20, 0x70] : Vector Byte 10)
    ++ (#v[0xF0, 0x10, 0xF0, 0x80, 0xF0,  0xF0, 0x10, 0xF0, 0x10, 0xF0] : Vector Byte 10)
    ++ (#v[0x90, 0x90, 0xF0, 0x10, 0x10,  0xF0, 0x80, 0xF0, 0x10, 0xF0] : Vector Byte 10)
    ++ (#v[0xF0, 0x80, 0xF0, 0x90, 0xF0,  0xF0, 0x10, 0x20, 0x40, 0x40] : Vector Byte 10)
    ++ (#v[0xF0, 0x90, 0xF0, 0x90, 0xF0,  0xF0, 0x90, 0xF0, 0x10, 0xF0] : Vector Byte 10)
    ++ (#v[0xF0, 0x90, 0xF0, 0x90, 0x90,  0xE0, 0x90, 0xE0, 0x90, 0xE0] : Vector Byte 10)
    ++ (#v[0xF0, 0x80, 0x80, 0x80, 0xF0,  0xE0, 0x90, 0x90, 0x90, 0xE0] : Vector Byte 10)
    ++ (#v[0xF0, 0x80, 0xF0, 0x80, 0xF0,  0xF0, 0x80, 0xF0, 0x80, 0x80] : Vector Byte 10)

/-- Every parameter at the default that rules R6 to R11 give it. -/
def Config.standard : Config where
  screenW := 64
  screenH := 32
  timersInStep := true
  shlFlag := .msb
  shlAliasE := true
  flagOrder := .snapshotFlagFirst
  font := Config.standardFont

/-- `RND` (rule R12): the byte that the n-th draw gives. A free value, under no law
(notes/assumptions/3.md). -/
opaque Config.rndByte : Nat → Byte

/-- `KEYPICK` (rule R12): which of the pressed keys the n-th choice takes, given the pressed-key set;
the model reduces it modulo the number of pressed keys. A free value (notes/assumptions/4.md). -/
opaque Config.keyPickIndex : Nat → BitVec 16 → Nat

end Sys2Proof
end

