-- ==== Sys2Proof/Syntax.lean ====
section
/-! DEFINITION. The instructions: one constructor per row of spec/opcode_table.json, in the table's
order, with the operands of rule R101. The ignored bits of rule R110 are no operand. -/

namespace Sys2Proof

/-- The 34 instructions of rule R108 and the alias row SHL.E (rule R3). -/
inductive Instr where
  /-- 00E0 `CLS` (rule R261). -/
  | cls
  /-- 00EE `RET` (rule R140). -/
  | ret
  /-- 1NNN `JP NNN` (rule R141). -/
  | jp (nnn : Addr)
  /-- 2NNN `CALL NNN` (rule R142). -/
  | call (nnn : Addr)
  /-- 3XNN `SE VX, NN` (rule R143). -/
  | se (x : RegIdx) (nn : Byte)
  /-- 4XNN `SNE VX, NN` (rule R144). -/
  | sne (x : RegIdx) (nn : Byte)
  /-- 5XY0 `SE VX, VY` (rule R145). -/
  | seR (x y : RegIdx)
  /-- 6XNN `LD VX, NN` (rule R181). -/
  | ldI8 (x : RegIdx) (nn : Byte)
  /-- 7XNN `ADD VX, NN` (rule R182). -/
  | addI8 (x : RegIdx) (nn : Byte)
  /-- 8XY0 `LD VX, VY` (rule R183). -/
  | ldR (x y : RegIdx)
  /-- 8XY1 `OR VX, VY` (rule R184). -/
  | orR (x y : RegIdx)
  /-- 8XY2 `AND VX, VY` (rule R185). -/
  | andR (x y : RegIdx)
  /-- 8XY3 `XOR VX, VY` (rule R186). -/
  | xorR (x y : RegIdx)
  /-- 8XY4 `ADD VX, VY` (rule R187). -/
  | addR (x y : RegIdx)
  /-- 8XY5 `SUB VX, VY` (rule R188). -/
  | sub (x y : RegIdx)
  /-- 8XY6 `SHR VX, VY` (rule R189). -/
  | shr (x y : RegIdx)
  /-- 8XY7 `SUBN VX, VY` (rule R190). -/
  | subn (x y : RegIdx)
  /-- 8XY8 `SHL VX, VY` (rule R191). -/
  | shl (x y : RegIdx)
  /-- 8XYE `SHL.E VX, VY`, the alias of rule R9 (rule R191). -/
  | shlE (x y : RegIdx)
  /-- 9XY0 `SNE VX, VY` (rule R146). -/
  | sneR (x y : RegIdx)
  /-- ANNN `LD I, NNN` (rule R230). -/
  | ldIdx (nnn : Addr)
  /-- BNNN `JP V0, NNN` (rule R147). -/
  | jpV0 (nnn : Addr)
  /-- CXNN `RND VX, NN` (rule R192). -/
  | rnd (x : RegIdx) (nn : Byte)
  /-- DXYN `DRW VX, VY, N` (rule R262); N is a count, 0 to 15 (rule R102). -/
  | drw (x y : RegIdx) (n : Fin 16)
  /-- EX9E `SKP VX` (rule R281). -/
  | skp (x : RegIdx)
  /-- EXA1 `SKNP VX` (rule R282). -/
  | sknp (x : RegIdx)
  /-- FX07 `LD VX, DT` (rule R284). -/
  | ldVxDt (x : RegIdx)
  /-- FX0A `LD VX, K` (rule R283). -/
  | ldVxK (x : RegIdx)
  /-- FX15 `LD DT, VX` (rule R285). -/
  | ldDtVx (x : RegIdx)
  /-- FX18 `LD ST, VX` (rule R286). -/
  | ldStVx (x : RegIdx)
  /-- FX1E `ADD I, VX` (rule R231). -/
  | addI (x : RegIdx)
  /-- FX29 `LD F, VX` (rule R232). -/
  | ldF (x : RegIdx)
  /-- FX33 `LD B, VX` (rule R233). -/
  | ldB (x : RegIdx)
  /-- FX55 `LD [I], VX` (rule R234). -/
  | ldStore (x : RegIdx)
  /-- FX65 `LD VX, [I]` (rule R235). -/
  | ldLoad (x : RegIdx)
deriving DecidableEq, Repr

end Sys2Proof
end

