-- ==== Sys2Proof/WellFormed.lean ====
section
/-! DEFINITION. Which terms of Instr are instructions of a machine with given parameters. The operand
bounds of rule R102 are in the operands' types; what is left to check is that the alias row exists. -/

namespace Sys2Proof

/-- The one check: `8XYE` is an instruction only where `SHL_ALIAS_E` is true (rule R9). -/
def Instr.wellFormed (cfg : Config) : Instr → Bool
  | .shlE _ _ => cfg.shlAliasE
  | .cls | .ret | .jp _ | .call _ | .se _ _ | .sne _ _ | .seR _ _ | .ldI8 _ _ | .addI8 _ _
  | .ldR _ _ | .orR _ _ | .andR _ _ | .xorR _ _ | .addR _ _ | .sub _ _ | .shr _ _ | .subn _ _
  | .shl _ _ | .sneR _ _ | .ldIdx _ | .jpV0 _ | .rnd _ _ | .drw _ _ _ | .skp _ | .sknp _
  | .ldVxDt _ | .ldVxK _ | .ldDtVx _ | .ldStVx _ | .addI _ | .ldF _ | .ldB _ | .ldStore _
  | .ldLoad _ => true

end Sys2Proof
end

