-- ==== Sys2Proof/Decode.lean ====
section
/-! DEFINITION. Fields, decoder and encoder (30_encoding.md). The decoder is a total function of the
word and the parameter SHL_ALIAS_E (rule R103, rule R9); a word that selects no executor is rejected
under the name of its class (rule R118). The encoder is written from the same table (rule R108). -/

namespace Sys2Proof

/-! ## Byte order (rule R78) -/

/-- The instruction word of two bytes, the byte at the lower address being the high one (rule R78). -/
def wordOfBytes (hi lo : Byte) : Word := hi ++ lo

/-- An instruction word as it lies in memory, the byte at the lower address first (rule R78). -/
def bytesOfWord (w : Word) : List Byte := [w.extractLsb' 8 8, w.extractLsb' 0 8]

/-! ## Fields (rule R101) -/

/-- `C`, the class: op[15:12]. -/
def fieldC (op : Word) : BitVec 4 := op.extractLsb' 12 4

/-- `X`: op[11:8], the index of a register. -/
def fieldX (op : Word) : RegIdx := (op.extractLsb' 8 4).toFin

/-- `Y`: op[7:4], the index of a register. -/
def fieldY (op : Word) : RegIdx := (op.extractLsb' 4 4).toFin

/-- `N`: op[3:0]. -/
def fieldN (op : Word) : Fin 16 := (op.extractLsb' 0 4).toFin

/-- `NN`: op[7:0]. -/
def fieldNN (op : Word) : Byte := op.extractLsb' 0 8

/-- `NNN`: op[11:0]. -/
def fieldNNN (op : Word) : Addr := op.extractLsb' 0 12

/-! ## Decoding -/

/-- The encodings that select no executor (rule R118), by class, with the sub-field that fails. -/
inductive Unrecognized where
  /-- Class 0 with NN neither E0 nor EE. -/
  | class0 (nn : Byte)
  /-- Class 8 with N in 9 to D or F, or E where SHL_ALIAS_E is false. -/
  | class8 (n : Fin 16)
  /-- Class E with NN neither 9E nor A1. -/
  | classE (nn : Byte)
  /-- Class F with an NN that rule R108 does not list. -/
  | classF (nn : Byte)
deriving DecidableEq, Repr

/-- Class 0 selects on NN alone; op[11:8] is ignored (rule R107, rule R110). -/
def decodeClass0 (op : Word) : Except Unrecognized Instr :=
  match (fieldNN op).toNat with
  | 0xE0 => .ok .cls
  | 0xEE => .ok .ret
  | _ => .error (.class0 (fieldNN op))

/-- Class 8 selects on N; N = E is shift-left only where the alias is enabled (rule R108, rule R9). -/
def decodeClass8 (cfg : Config) (op : Word) : Except Unrecognized Instr :=
  match (fieldN op).val with
  | 0x0 => .ok (.ldR (fieldX op) (fieldY op))
  | 0x1 => .ok (.orR (fieldX op) (fieldY op))
  | 0x2 => .ok (.andR (fieldX op) (fieldY op))
  | 0x3 => .ok (.xorR (fieldX op) (fieldY op))
  | 0x4 => .ok (.addR (fieldX op) (fieldY op))
  | 0x5 => .ok (.sub (fieldX op) (fieldY op))
  | 0x6 => .ok (.shr (fieldX op) (fieldY op))
  | 0x7 => .ok (.subn (fieldX op) (fieldY op))
  | 0x8 => .ok (.shl (fieldX op) (fieldY op))
  | 0xE => if cfg.shlAliasE then .ok (.shlE (fieldX op) (fieldY op)) else .error (.class8 (fieldN op))
  | _ => .error (.class8 (fieldN op))

/-- Class E selects on NN (rule R108). -/
def decodeClassE (op : Word) : Except Unrecognized Instr :=
  match (fieldNN op).toNat with
  | 0x9E => .ok (.skp (fieldX op))
  | 0xA1 => .ok (.sknp (fieldX op))
  | _ => .error (.classE (fieldNN op))

/-- Class F selects on NN (rule R108). -/
def decodeClassF (op : Word) : Except Unrecognized Instr :=
  match (fieldNN op).toNat with
  | 0x07 => .ok (.ldVxDt (fieldX op))
  | 0x0A => .ok (.ldVxK (fieldX op))
  | 0x15 => .ok (.ldDtVx (fieldX op))
  | 0x18 => .ok (.ldStVx (fieldX op))
  | 0x1E => .ok (.addI (fieldX op))
  | 0x29 => .ok (.ldF (fieldX op))
  | 0x33 => .ok (.ldB (fieldX op))
  | 0x55 => .ok (.ldStore (fieldX op))
  | 0x65 => .ok (.ldLoad (fieldX op))
  | _ => .error (.classF (fieldNN op))

/-- The opcode map of rule R108. Classes 5 and 9 ignore op[3:0] (rule R110). -/
def decodeWord (cfg : Config) (op : Word) : Except Unrecognized Instr :=
  match (fieldC op).toNat with
  | 0x0 => decodeClass0 op
  | 0x1 => .ok (.jp (fieldNNN op))
  | 0x2 => .ok (.call (fieldNNN op))
  | 0x3 => .ok (.se (fieldX op) (fieldNN op))
  | 0x4 => .ok (.sne (fieldX op) (fieldNN op))
  | 0x5 => .ok (.seR (fieldX op) (fieldY op))
  | 0x6 => .ok (.ldI8 (fieldX op) (fieldNN op))
  | 0x7 => .ok (.addI8 (fieldX op) (fieldNN op))
  | 0x8 => decodeClass8 cfg op
  | 0x9 => .ok (.sneR (fieldX op) (fieldY op))
  | 0xA => .ok (.ldIdx (fieldNNN op))
  | 0xB => .ok (.jpV0 (fieldNNN op))
  | 0xC => .ok (.rnd (fieldX op) (fieldNN op))
  | 0xD => .ok (.drw (fieldX op) (fieldY op) (fieldN op))
  | 0xE => decodeClassE op
  | _ => decodeClassF op  -- C is four bits wide, so this is class F

/-- Why a sequence of bytes gives no instruction. -/
inductive Reject where
  /-- Fewer than the two bytes that every instruction has (rule R100). -/
  | truncated
  /-- The word selects no executor (rule R118). -/
  | unrecognized (u : Unrecognized)
deriving DecidableEq, Repr

/-- Decoding on any bytes: the first instruction and the bytes after it (rule R100, rule R78). -/
def decodeBytes (cfg : Config) : List Byte → Except Reject (Instr × List Byte)
  | hi :: lo :: rest =>
    match decodeWord cfg (wordOfBytes hi lo) with
    | .ok i => .ok (i, rest)
    | .error u => .error (.unrecognized u)
  | [_] => .error .truncated
  | [] => .error .truncated

/-- The instruction the decoder reads from a row's bits, with the parameters at their defaults. -/
def decodeTableWord (nbits w : Nat) : Option Instr :=
  match decodeBytes Config.standard (bytesOfWord (BitVec.ofNat 16 (w % 2 ^ nbits))) with
  | .ok (i, _) => some i
  | .error _ => none

/-! ## Encoding (rule R108; the ignored bits of rule R110 are written as zero, rule R120) -/

/-- `cccc nnnn nnnn nnnn` (30_encoding.md section 2). -/
def packNNN (c : BitVec 4) (nnn : Addr) : Word := c ++ nnn

/-- `cccc xxxx kkkk kkkk`. -/
def packXNN (c : BitVec 4) (x : RegIdx) (nn : Byte) : Word := c ++ (BitVec.ofFin x : BitVec 4) ++ nn

/-- `cccc xxxx yyyy nnnn`. -/
def packXYN (c : BitVec 4) (x y n : Fin 16) : Word :=
  c ++ (BitVec.ofFin x : BitVec 4) ++ (BitVec.ofFin y : BitVec 4) ++ (BitVec.ofFin n : BitVec 4)

/-- The word of an instruction. -/
def encode : Instr → Word
  | .cls => packXNN 0x0 0 0xE0
  | .ret => packXNN 0x0 0 0xEE
  | .jp nnn => packNNN 0x1 nnn
  | .call nnn => packNNN 0x2 nnn
  | .se x nn => packXNN 0x3 x nn
  | .sne x nn => packXNN 0x4 x nn
  | .seR x y => packXYN 0x5 x y 0
  | .ldI8 x nn => packXNN 0x6 x nn
  | .addI8 x nn => packXNN 0x7 x nn
  | .ldR x y => packXYN 0x8 x y 0x0
  | .orR x y => packXYN 0x8 x y 0x1
  | .andR x y => packXYN 0x8 x y 0x2
  | .xorR x y => packXYN 0x8 x y 0x3
  | .addR x y => packXYN 0x8 x y 0x4
  | .sub x y => packXYN 0x8 x y 0x5
  | .shr x y => packXYN 0x8 x y 0x6
  | .subn x y => packXYN 0x8 x y 0x7
  | .shl x y => packXYN 0x8 x y 0x8
  | .shlE x y => packXYN 0x8 x y 0xE
  | .sneR x y => packXYN 0x9 x y 0
  | .ldIdx nnn => packNNN 0xA nnn
  | .jpV0 nnn => packNNN 0xB nnn
  | .rnd x nn => packXNN 0xC x nn
  | .drw x y n => packXYN 0xD x y n
  | .skp x => packXNN 0xE x 0x9E
  | .sknp x => packXNN 0xE x 0xA1
  | .ldVxDt x => packXNN 0xF x 0x07
  | .ldVxK x => packXNN 0xF x 0x0A
  | .ldDtVx x => packXNN 0xF x 0x15
  | .ldStVx x => packXNN 0xF x 0x18
  | .addI x => packXNN 0xF x 0x1E
  | .ldF x => packXNN 0xF x 0x29
  | .ldB x => packXNN 0xF x 0x33
  | .ldStore x => packXNN 0xF x 0x55
  | .ldLoad x => packXNN 0xF x 0x65

/-- The bytes of an instruction as they lie in memory, the lower address first. -/
def encodeBytes (i : Instr) : List Byte := bytesOfWord (encode i)

end Sys2Proof
end

