-- ==== Sys2Proof/Machine/State.lean ====
section
/-! DEFINITION. The state of the core (10_state.md), as plain data, its value after RESET, and the ways
a step can stop. The last three fields are the model's own: the parameters the machine was built with
and the positions of the two oracles. -/

namespace Sys2Proof.Machine

/-- `ERR` (rule R44, rule R312). -/
inductive ErrCode where
  /-- Code 0: no error. -/
  | none
  /-- Code 1: CALL with SP = 16 (rule R313). -/
  | stackOverflow
  /-- Code 2: RET with SP = 0 (rule R314). -/
  | stackUnderflow
  /-- Code 3: a data address above 0xFFF (rule R315). -/
  | memBounds
  /-- Code 4: a fetch with pc > 0xFFE (rule R316). -/
  | fetchBounds
deriving DecidableEq, Repr

/-- `MEM` as the bytes that differ from their reset value, the addresses strictly rising (rule R43;
the canonical form is Memory.wf, notes/assumptions/5.md). -/
abbrev Memory := List Host.Cell

/-- `FB` as a list of rows, row 0 first, each a list of pixels, column 0 first (rule R41). -/
abbrev Framebuffer := List (List Bool)

/-- Every piece of state of 10_state.md section 1, and the model's own three fields. -/
structure State where
  /-- V0 to VF (rule R30). -/
  v : Vector Byte 16
  /-- The index register I (rule R34). -/
  i : Word
  /-- The program counter (rule R36). -/
  pc : Word
  /-- STACK[0..15] (rule R38). -/
  stack : Vector Word 16
  /-- SP, the stack depth, 0 to 16 (rule R38). -/
  sp : Fin 17
  /-- DT, the delay timer (rule R40). -/
  dt : Byte
  /-- ST, the sound timer (rule R40). -/
  st : Byte
  /-- MEM (rule R43). -/
  mem : Memory
  /-- FB (rule R41). -/
  fb : Framebuffer
  /-- KEYS: bit k is set when key k is pressed (rule R42). -/
  keys : BitVec 16
  /-- HALTED (rule R44). -/
  halted : Bool
  /-- ERR (rule R44). -/
  err : ErrCode
  /-- The parameters (rules R6 to R11); no command changes them (notes/assumptions/1.md). -/
  cfg : Config
  /-- How many bytes have been drawn from RND (rule R12, notes/assumptions/3.md). -/
  rndDraws : Nat
  /-- How many choices KEYPICK has made (rule R12, notes/assumptions/4.md). -/
  keyPicks : Nat
deriving DecidableEq, Repr

/-- The state after RESET (rule R57, rule R340) of a machine with parameters cfg whose oracles have
given so many values. Memory that lists nothing holds FONT and zeros. -/
def State.resetWith (cfg : Config) (rndDraws keyPicks : Nat) : State where
  v := Vector.replicate 16 0
  i := 0
  pc := 0x0200
  stack := Vector.replicate 16 0
  sp := 0
  dt := 0
  st := 0
  mem := []
  fb := List.replicate cfg.screenH (List.replicate cfg.screenW false)
  keys := 0
  halted := false
  err := .none
  cfg := cfg
  rndDraws := rndDraws
  keyPicks := keyPicks

/-- The machine right after construction, which is RESET (rule R341), with default parameters. -/
def State.reset : State := State.resetWith Config.standard 0 0

/-- No step of this machine stops with a fault, so there is no constructor: the spec gives every word
an effect, and a fatal error is a next state with HALTED and ERR set (rule R311). -/
inductive Fault where
deriving DecidableEq, Repr

/-- Why an instruction has no meaning in the model. -/
inductive Refusal where
  /-- Raised by exec's arm of an instruction that has no meaning yet; safe, since nothing is claimed of
  it. No arm raises it. -/
  | notModelled (mnemonic : String)
deriving DecidableEq, Repr

/-- What a meaning or a step answers. -/
abbrev Outcome := Host.Outcome State Fault Refusal

end Sys2Proof.Machine
end

