-- ==== Sys2Proof/Machine/Ops.lean ====
section
/-! DEFINITION. The operations every meaning is made of: memory (20_memory.md), registers, the call
stack (rule R39), the framebuffer (rule R41), the program counter (rule R109), fetching (rule R105),
raising a fatal error (rule R311) and the timer tick (rule R287). -/

namespace Sys2Proof.Machine

/-! ## Memory -/

/-- What an address reads as that nothing has written: FONT at 0x000-0x04F, zero above (rule R57). -/
def Memory.unlisted (font : Vector Byte 80) (a : Nat) : Byte :=
  if h : a < 80 then font[a] else 0

/-- The listed byte of an address. -/
def Memory.lookup : Memory → Nat → Option Byte
  | [], _ => none
  | (b, v) :: m, a => if b = a then some v else Memory.lookup m a

/-- MEM[a] (rule R74). -/
def Memory.read (font : Vector Byte 80) (m : Memory) (a : Nat) : Byte :=
  (Memory.lookup m a).getD (Memory.unlisted font a)

/-- Removes an address from the list. -/
def Memory.erase : Memory → Nat → Memory
  | [], _ => []
  | (b, w) :: m, a => if b = a then Memory.erase m a else (b, w) :: Memory.erase m a

/-- Lists an address with its byte, keeping the addresses rising. -/
def Memory.insert : Memory → Nat → Byte → Memory
  | [], a, v => [(a, v)]
  | (b, w) :: m, a, v =>
    if a < b then (a, v) :: (b, w) :: m
    else if a = b then (a, v) :: m
    else (b, w) :: Memory.insert m a v

/-- MEM[a] <- v (rule R75), in the canonical form: the value an unlisted address reads as is not listed. -/
def Memory.write (font : Vector Byte 80) (m : Memory) (a : Nat) (v : Byte) : Memory :=
  if v = Memory.unlisted font a then Memory.erase m a else Memory.insert m a v

/-- The canonical form: addresses strictly rising and inside 0x000-0xFFF (rule R70), and no entry
equal to what its address reads as when unlisted. -/
abbrev Memory.wf (font : Vector Byte 80) (m : Memory) : Prop :=
  m.Pairwise (fun p q => p.1 < q.1) ∧ ∀ c ∈ m, c.1 < 4096 ∧ c.2 ≠ Memory.unlisted font c.1

/-! ## The state's registers -/

/-- `V[x]`. -/
def State.reg (s : State) (x : RegIdx) : Byte := s.v[x.val]

/-- `V[x] <- b`. -/
def State.setReg (s : State) (x : RegIdx) (b : Byte) : State := { s with v := s.v.set x.val b }

/-- `I <- w`. -/
def State.setI (s : State) (w : Word) : State := { s with i := w }

/-- `pc <- w`. -/
def State.setPc (s : State) (w : Word) : State := { s with pc := w }

/-- `DT <- b`. -/
def State.setDt (s : State) (b : Byte) : State := { s with dt := b }

/-- `ST <- b`. -/
def State.setSt (s : State) (b : Byte) : State := { s with st := b }

/-- Replaces MEM. -/
def State.setMem (s : State) (m : Memory) : State := { s with mem := m }

/-- Replaces FB. -/
def State.setFb (s : State) (fb : Framebuffer) : State := { s with fb := fb }

/-- Replaces KEYS (rule R50). -/
def State.setKeys (s : State) (ks : BitVec 16) : State := { s with keys := ks }

/-- Replaces the call stack and its depth (rule R39). -/
def State.setStack (s : State) (stack : Vector Word 16) (sp : Fin 17) : State :=
  { s with stack := stack, sp := sp }

/-- One more byte has been drawn from RND (rule R12). -/
def State.countDraw (s : State) : State := { s with rndDraws := s.rndDraws + 1 }

/-- KEYPICK has chosen once more (rule R12). -/
def State.countPick (s : State) : State := { s with keyPicks := s.keyPicks + 1 }

/-- `HALTED <- true; ERR <- code` (rule R44). -/
def State.halt (s : State) (code : ErrCode) : State := { s with halted := true, err := code }

/-- Writes a sequence of bytes to V[k], V[k+1], …; FX65's loop (rule R235). -/
def State.setRegsFrom (s : State) : Nat → List Byte → State
  | _, [] => s
  | k, b :: bs => State.setRegsFrom (if h : k < 16 then s.setReg ⟨k, h⟩ b else s) (k + 1) bs

/-- V[0], …, V[x], in that order; what FX55 stores (rule R234). -/
def State.regsUpTo (s : State) (x : RegIdx) : List Byte := s.v.toList.take (x.val + 1)

/-! ## Access primitives (rule R74, rule R75) and the multi-byte forms of rule R76 -/

/-- The byte that memory holds at an address. -/
def State.readByte (s : State) (a : Nat) : Byte := Memory.read s.cfg.font s.mem a

/-- `MemRead(a, 1)`: none stands for `raise Fatal(MEM_BOUNDS)` (rule R74). -/
def State.memRead (s : State) (a : Nat) : Option Byte :=
  if a > 0xFFF then none else some (s.readByte a)

/-- `MemWrite(a, 1, v)`: none stands for `raise Fatal(MEM_BOUNDS)` (rule R75). -/
def State.memWrite (s : State) (a : Nat) (v : Byte) : Option State :=
  if a > 0xFFF then none else some (s.setMem (Memory.write s.cfg.font s.mem a v))

/-- The n bytes at a, a+1, …, with no wrap; none if any address is above 0xFFF (rule R76). -/
def State.readBytes (s : State) : Nat → Nat → Option (List Byte)
  | _, 0 => some []
  | a, n + 1 =>
    match s.memRead a, s.readBytes (a + 1) n with
    | some b, some bs => some (b :: bs)
    | _, _ => none

/-- Writes bytes at a, a+1, …; none, and so no write at all, if any address is above 0xFFF (rule R76). -/
def State.writeBytes (s : State) : Nat → List Byte → Option State
  | _, [] => some s
  | a, b :: bs =>
    match s.memWrite a b with
    | some t => t.writeBytes (a + 1) bs
    | none => none

/-! ## Call stack (rule R39) -/

/-- A push: STACK[SP] <- ra, then SP <- SP + 1; none if SP is 16 (rule R142). -/
def State.pushReturn (s : State) (ra : Word) : Option State :=
  if h : s.sp.val < 16 then
    some (s.setStack (s.stack.set s.sp.val ra) ⟨s.sp.val + 1, by omega⟩)
  else none

/-- A pop: SP <- SP - 1, then STACK[SP], whose entry stays in place; none if SP is 0 (rule R140). -/
def State.popReturn (s : State) : Option (Word × State) :=
  match s.sp with
  | ⟨0, _⟩ => none
  | ⟨k + 1, h⟩ => some (s.stack[k], s.setStack s.stack ⟨k, by omega⟩)

/-! ## Framebuffer (rule R41) -/

/-- A clear framebuffer of w columns and h rows. -/
def Framebuffer.clear (w h : Nat) : Framebuffer := List.replicate h (List.replicate w false)

/-- FB[x][y], false outside the grid. -/
def Framebuffer.get (fb : Framebuffer) (x y : Nat) : Bool := (((fb[y]?).getD [])[x]?).getD false

/-- FB[x][y] <- not FB[x][y]. -/
def Framebuffer.toggle (fb : Framebuffer) (x y : Nat) : Framebuffer :=
  fb.modify y (fun row => row.modify x (fun p => !p))

/-- The grid has h rows of w pixels. -/
abbrev Framebuffer.wf (w h : Nat) (fb : Framebuffer) : Prop :=
  fb.length = h ∧ ∀ row ∈ fb, row.length = w

/-- One sprite bit of the inner loop of rule R262: acc is the framebuffer and the collision so far. -/
def Framebuffer.drawBit (w h x0 y0 row : Nat) (sprite : Byte) (acc : Framebuffer × Bool) (col : Nat) :
    Framebuffer × Bool :=
  if sprite.getLsbD (7 - col) then
    (acc.1.toggle ((x0 + col) % w) ((y0 + row) % h),
      acc.2 || acc.1.get ((x0 + col) % w) ((y0 + row) % h))
  else acc

/-- One row of a sprite: columns 0 to 7 in order, column 0 being bit 7 (rule R262). -/
def Framebuffer.drawRow (w h x0 y0 row : Nat) (sprite : Byte) (acc : Framebuffer × Bool) :
    Framebuffer × Bool :=
  [0, 1, 2, 3, 4, 5, 6, 7].foldl (Framebuffer.drawBit w h x0 y0 row sprite) acc

/-- The rows of a sprite from row number `row` on, in order (rule R262). -/
def Framebuffer.drawRows (w h x0 y0 : Nat) : Nat → List Byte → Framebuffer × Bool → Framebuffer × Bool
  | _, [], acc => acc
  | row, b :: bs, acc =>
    Framebuffer.drawRows w h x0 y0 (row + 1) bs (Framebuffer.drawRow w h x0 y0 row b acc)

/-! ## Program counter (rule R109) -/

/-- `pc <- p + 2`. -/
def State.advance (s : State) : State := s.setPc (s.pc + 2)

/-- `pc <- p + 4` when the condition holds, else `pc <- p + 2`. -/
def State.skipIf (s : State) (c : Bool) : State := s.setPc (s.pc + if c then 4 else 2)

/-! ## Fatal errors, fetch, tick -/

/-- `raise Fatal(code)` (rule R311): no write of the step has happened, HALTED and ERR are set, and the
machine stays at the failing instruction. A next state, since the spec describes it. -/
def raiseFatal (code : ErrCode) (s : State) : Outcome := .next (s.halt code)

/-- `Fetch(pc)`: the two bytes at pc and pc+1, big-endian, or none for Fatal(FETCH_BOUNDS)
(rule R105, rule R106). -/
def State.fetch (s : State) : Option Word :=
  if s.pc.toNat > 0xFFE then none
  else some (wordOfBytes (s.readByte s.pc.toNat) (s.readByte (s.pc.toNat + 1)))

/-- One timer counted down, never below zero (rule R287). -/
def tickTimer (b : Byte) : Byte := if b = 0 then 0 else b - 1

/-- `Tick()` (rule R287). -/
def State.tick (s : State) : State := (s.setDt (tickTimer s.dt)).setSt (tickTimer s.st)

/-- Stores an instruction word at pc; where it does not fit in memory, nothing changes. -/
def State.placeWord (s : State) (w : Word) : State :=
  (s.writeBytes s.pc.toNat (bytesOfWord w)).getD s

end Sys2Proof.Machine
end

