-- ==== Sys2Proof/Machine/Operands.lean ====
section
/-! DEFINITION. The operand forms (rule R102, rule R236): what each instruction reads an operand as. -/

namespace Sys2Proof.Machine

/-- `zext_16(NNN)` (rule R102). -/
def addrOperand (nnn : Addr) : Word := nnn.setWidth 16

/-- `zext_16(V[x])` (rule R231, rule R147). -/
def State.regWord (s : State) (x : RegIdx) : Word := (s.reg x).setWidth 16

/-- I as the first address of a memory access, a plain integer (rule R76). -/
def State.indexAddr (s : State) : Nat := s.i.toNat

/-- The address of the glyph of a digit, `zext_16(V[x]) * 5`; V[x] is not masked (rule R232). -/
def State.glyphAddr (s : State) (x : RegIdx) : Word := s.regWord x * 5

/-- The decimal digits of V[x]: hundreds, tens, units (rule R233). -/
def bcdDigits (b : Byte) : List Byte :=
  [BitVec.ofNat 8 (b.toNat / 100), BitVec.ofNat 8 (b.toNat / 10 % 10), BitVec.ofNat 8 (b.toNat % 10)]

/-- Whether the key of a code is pressed; a code above 0xF never is (rule R280, rule R281). -/
def State.keyPressed (s : State) (code : Byte) : Bool :=
  code.toNat ≤ 0xF && s.keys.getLsbD code.toNat

/-- The codes of the pressed keys, rising. -/
def pressedKeys (keys : BitVec 16) : List Nat := (List.range 16).filter (fun k => keys.getLsbD k)

/-- `choose KEYPICK(KEYS)` (rule R12): the free index picks one of the pressed keys. -/
def State.chosenKey (s : State) : Byte :=
  let ks := pressedKeys s.keys
  BitVec.ofNat 8 ((ks[Config.keyPickIndex s.keyPicks s.keys % ks.length]?).getD 0)

/-- `draw RND` (rule R12): the byte that the next draw gives. -/
def State.randomByte (s : State) : Byte := Config.rndByte s.rndDraws

end Sys2Proof.Machine
end

