-- ==== Sys2Proof/Machine/Flags.lean ====
section
/-! DEFINITION. The flag computations of 41_alu.md: the flag and result functions of the five
instructions that write both VF and VX, and the order of the two writes (rule R180). VF is the only
flag (rule R45). -/

namespace Sys2Proof.Machine

/-- A flag as VF holds it: 0 or 1. -/
def flagByte (c : Bool) : Byte := if c then 1 else 0

/-- Carry out of bit 7 (rule R187). -/
def addFlag (a b : Byte) : Byte := flagByte (decide (a.toNat + b.toNat > 255))

/-- (a + b) mod 256 (rule R187). -/
def addResult (a b : Byte) : Byte := BitVec.ofNat 8 (a.toNat + b.toNat)

/-- Borrow: 1 exactly when b > a (rule R188). -/
def subFlag (a b : Byte) : Byte := flagByte (decide (b.toNat > a.toNat))

/-- (a - b) mod 256 (rule R188). -/
def subResult (a b : Byte) : Byte := BitVec.ofInt 8 ((a.toNat : Int) - (b.toNat : Int))

/-- Bit 0 of VX before the shift (rule R189). -/
def shrFlag (a _b : Byte) : Byte := flagByte (a.getLsbD 0)

/-- a >> 1, logical (rule R189). -/
def shrResult (a _b : Byte) : Byte := a >>> 1

/-- Not borrow: 0 exactly when a > b (rule R190). -/
def subnFlag (a b : Byte) : Byte := flagByte (!decide (a.toNat > b.toNat))

/-- (b - a) mod 256 (rule R190). -/
def subnResult (a b : Byte) : Byte := BitVec.ofInt 8 ((b.toNat : Int) - (a.toNat : Int))

/-- Bit 7 of VX before the shift, or whether its low nibble is not zero, as SHL_FLAG says (rule R191). -/
def shlFlag (which : ShlFlag) (a _b : Byte) : Byte :=
  match which with
  | .msb => flagByte (a.getLsbD 7)
  | .lowNibble => flagByte (decide (a &&& 0x0F ≠ 0))

/-- (a << 1) mod 256 (rule R191). -/
def shlResult (a _b : Byte) : Byte := a <<< 1

/-- `FlagOp(fl, res)` less its pc advance: the writes of VF and VX in the order FLAG_ORDER says
(rule R180). -/
def State.flagOp (s : State) (fl res : Byte → Byte → Byte) (x y : RegIdx) : State :=
  match s.cfg.flagOrder with
  | .snapshotFlagFirst =>
    (s.setReg vf (fl (s.reg x) (s.reg y))).setReg x (res (s.reg x) (s.reg y))
  | .snapshotFlagLast =>
    (s.setReg x (res (s.reg x) (s.reg y))).setReg vf (fl (s.reg x) (s.reg y))
  | .sequential =>
    let s1 := s.setReg vf (fl (s.reg x) (s.reg y))
    s1.setReg x (res (s1.reg x) (s1.reg y))

end Sys2Proof.Machine
end

