-- ==== Sys2Proof/Machine/Alu.lean ====
section
/-! DEFINITION. Register arithmetic, logic and random (41_alu.md). -/

namespace Sys2Proof.Machine

/-- `LD VX, NN` (rule R181). -/
def execLdI8 (x : RegIdx) (nn : Byte) (s : State) : Outcome := .next (s.setReg x nn).advance

/-- `ADD VX, NN` (rule R182): VF is not written as a flag. -/
def execAddI8 (x : RegIdx) (nn : Byte) (s : State) : Outcome :=
  .next (s.setReg x (addResult (s.reg x) nn)).advance

/-- `LD VX, VY` (rule R183). -/
def execLdR (x y : RegIdx) (s : State) : Outcome := .next (s.setReg x (s.reg y)).advance

/-- `OR VX, VY` (rule R184). -/
def execOrR (x y : RegIdx) (s : State) : Outcome := .next (s.setReg x (s.reg x ||| s.reg y)).advance

/-- `AND VX, VY` (rule R185). -/
def execAndR (x y : RegIdx) (s : State) : Outcome := .next (s.setReg x (s.reg x &&& s.reg y)).advance

/-- `XOR VX, VY` (rule R186). -/
def execXorR (x y : RegIdx) (s : State) : Outcome := .next (s.setReg x (s.reg x ^^^ s.reg y)).advance

/-- `ADD VX, VY` (rule R187). -/
def execAddR (x y : RegIdx) (s : State) : Outcome := .next (s.flagOp addFlag addResult x y).advance

/-- `SUB VX, VY` (rule R188). -/
def execSub (x y : RegIdx) (s : State) : Outcome := .next (s.flagOp subFlag subResult x y).advance

/-- `SHR VX, VY` (rule R189). -/
def execShr (x y : RegIdx) (s : State) : Outcome := .next (s.flagOp shrFlag shrResult x y).advance

/-- `SUBN VX, VY` (rule R190). -/
def execSubn (x y : RegIdx) (s : State) : Outcome := .next (s.flagOp subnFlag subnResult x y).advance

/-- `SHL VX, VY` (rule R191). -/
def execShl (x y : RegIdx) (s : State) : Outcome :=
  .next (s.flagOp (shlFlag s.cfg.shlFlag) shlResult x y).advance

/-- `SHL.E VX, VY`, exactly as 8XY8 (rule R9, rule R191). -/
def execShlE (x y : RegIdx) (s : State) : Outcome :=
  .next (s.flagOp (shlFlag s.cfg.shlFlag) shlResult x y).advance

/-- `RND VX, NN` (rule R192): each execution draws exactly one byte. -/
def execRnd (x : RegIdx) (nn : Byte) (s : State) : Outcome :=
  .next ((s.setReg x (nn &&& s.randomByte)).countDraw).advance

end Sys2Proof.Machine
end

