-- ==== Sys2Proof/Machine/Control.lean ====
section
/-! DEFINITION. Control transfer and skips (40_control_flow.md), and what a step does on a word that
selects no executor (rule R118). -/

namespace Sys2Proof.Machine

/-- `RET` (rule R140). -/
def execRet (s : State) : Outcome :=
  match s.popReturn with
  | none => raiseFatal .stackUnderflow s
  | some (ra, t) => .next (t.setPc ra)

/-- `JP NNN` (rule R141). -/
def execJp (nnn : Addr) (s : State) : Outcome := .next (s.setPc (addrOperand nnn))

/-- `CALL NNN` (rule R142): the value pushed is the address after the call. -/
def execCall (nnn : Addr) (s : State) : Outcome :=
  match s.pushReturn (s.pc + 2) with
  | none => raiseFatal .stackOverflow s
  | some t => .next (t.setPc (addrOperand nnn))

/-- `SE VX, NN` (rule R143). -/
def execSe (x : RegIdx) (nn : Byte) (s : State) : Outcome := .next (s.skipIf (s.reg x == nn))

/-- `SNE VX, NN` (rule R144). -/
def execSne (x : RegIdx) (nn : Byte) (s : State) : Outcome := .next (s.skipIf (s.reg x != nn))

/-- `SE VX, VY` (rule R145). -/
def execSeR (x y : RegIdx) (s : State) : Outcome := .next (s.skipIf (s.reg x == s.reg y))

/-- `SNE VX, VY` (rule R146). -/
def execSneR (x y : RegIdx) (s : State) : Outcome := .next (s.skipIf (s.reg x != s.reg y))

/-- `JP V0, NNN` (rule R147). -/
def execJpV0 (nnn : Addr) (s : State) : Outcome := .next (s.setPc (addrOperand nnn + s.regWord 0))

/-- An unrecognized word: `pc <- pc + 2` and nothing else (rule R118, rule R320). -/
def execUnrecognized (s : State) : Outcome := .next s.advance

end Sys2Proof.Machine
end

