-- ==== Sys2Proof/Machine/Display.lean ====
section
/-! DEFINITION. Framebuffer instructions (43_display.md). -/

namespace Sys2Proof.Machine

/-- `CLS` (rule R261). -/
def execCls (s : State) : Outcome :=
  .next (s.setFb (Framebuffer.clear s.cfg.screenW s.cfg.screenH)).advance

/-- The framebuffer and the collision flag after a sprite is drawn at (V[x], V[y]), both read before
VF is cleared (rule R260, rule R262). -/
def State.drawSprite (s : State) (x y : RegIdx) (rows : List Byte) : Framebuffer × Bool :=
  Framebuffer.drawRows s.cfg.screenW s.cfg.screenH (s.reg x).toNat (s.reg y).toNat 0 rows (s.fb, false)

/-- `DRW VX, VY, N` (rule R262, rule R263). -/
def execDrw (x y : RegIdx) (n : Fin 16) (s : State) : Outcome :=
  match s.readBytes s.indexAddr n.val with
  | none => raiseFatal .memBounds s
  | some rows =>
    .next ((s.setFb (s.drawSprite x y rows).1).setReg vf (flagByte (s.drawSprite x y rows).2)).advance

end Sys2Proof.Machine
end

