-- ==== Sys2Proof/Machine/Index.lean ====
section
/-! DEFINITION. Index register and memory transfer (42_index_memory.md). The accesses are checked as a
whole before any write (rule R76), and I is unchanged by FX33, FX55 and FX65 (rule R35). -/

namespace Sys2Proof.Machine

/-- `LD I, NNN` (rule R230). -/
def execLdIdx (nnn : Addr) (s : State) : Outcome := .next (s.setI (addrOperand nnn)).advance

/-- `ADD I, VX` (rule R231): modulo 65536, no flag. -/
def execAddI (x : RegIdx) (s : State) : Outcome := .next (s.setI (s.i + s.regWord x)).advance

/-- `LD F, VX` (rule R232). -/
def execLdF (x : RegIdx) (s : State) : Outcome := .next (s.setI (s.glyphAddr x)).advance

/-- `LD B, VX` (rule R233). -/
def execLdB (x : RegIdx) (s : State) : Outcome :=
  match s.writeBytes s.indexAddr (bcdDigits (s.reg x)) with
  | none => raiseFatal .memBounds s
  | some t => .next t.advance

/-- `LD [I], VX` (rule R234). -/
def execLdStore (x : RegIdx) (s : State) : Outcome :=
  match s.writeBytes s.indexAddr (s.regsUpTo x) with
  | none => raiseFatal .memBounds s
  | some t => .next t.advance

/-- `LD VX, [I]` (rule R235). -/
def execLdLoad (x : RegIdx) (s : State) : Outcome :=
  match s.readBytes s.indexAddr (x.val + 1) with
  | none => raiseFatal .memBounds s
  | some bs => .next (s.setRegsFrom 0 bs).advance

end Sys2Proof.Machine
end

