-- ==== Sys2Proof/Machine/Input.lean ====
section
/-! DEFINITION. Key input and timer instructions (44_input_timers.md). Which of FX07, FX15 and FX18
does what is general knowledge that the spec adopts (notes/assumptions/6.md). -/

namespace Sys2Proof.Machine

/-- `SKP VX` (rule R281). -/
def execSkp (x : RegIdx) (s : State) : Outcome := .next (s.skipIf (s.keyPressed (s.reg x)))

/-- `SKNP VX` (rule R282). -/
def execSknp (x : RegIdx) (s : State) : Outcome := .next (s.skipIf (!s.keyPressed (s.reg x)))

/-- `LD VX, DT` (rule R284). -/
def execLdVxDt (x : RegIdx) (s : State) : Outcome := .next (s.setReg x s.dt).advance

/-- `LD VX, K` (rule R283): with no key pressed pc stays at this word; else VX takes a pressed key. -/
def execLdVxK (x : RegIdx) (s : State) : Outcome :=
  if s.keys = 0 then .next s
  else .next ((s.setReg x s.chosenKey).countPick).advance

/-- `LD DT, VX` (rule R285). -/
def execLdDtVx (x : RegIdx) (s : State) : Outcome := .next (s.setDt (s.reg x)).advance

/-- `LD ST, VX` (rule R286). -/
def execLdStVx (x : RegIdx) (s : State) : Outcome := .next (s.setSt (s.reg x)).advance

end Sys2Proof.Machine
end

