-- ==== Sys2Proof/Machine/Cycle.lean ====
section
/-! DEFINITION. One STEP command (rule R104): fetch, decode, execute, then the timer tick. -/

namespace Sys2Proof.Machine

/-- What a step that runs with HALTED false does after its instruction: a step that raised a fatal
error does not tick (rule R311); else the timers tick where TIMERS_IN_STEP (rule R104, rule R287). -/
def State.endOfStep (t : State) : State :=
  if t.halted then t else if t.cfg.timersInStep then t.tick else t

/-- The end of a step around an executor's outcome. -/
def endStep : Outcome → Outcome
  | .next t => .next t.endOfStep
  | .fault r => .fault r
  | .refused r => .refused r

/-- The step of rule R104. While HALTED nothing changes (rule R48); the fetch check comes before the
executor's own (rule R317). -/
def cycle (s : State) : Outcome :=
  if s.halted then .next s
  else
    match s.fetch with
    | none => raiseFatal .fetchBounds s
    | some op =>
      match decodeWord s.cfg op with
      | .error _ => endStep (execUnrecognized s)
      | .ok i => endStep (exec i s)

end Sys2Proof.Machine
end

