-- ==== Sys2Proof/Machine/Step.lean ====
section
/-! DEFINITION. The machine's step, and the placing of one instruction word where the step fetches. -/

namespace Sys2Proof.Machine

/-- One STEP command (rule R48, rule R104). -/
def step (s : State) : Host.Outcome State Fault Refusal := cycle s

/-- s with the instruction whose bits are w stored at pc, high byte first (rule R78, rule R105). -/
def State.withFetchWord (s : State) (nbits w : Nat) : State :=
  s.placeWord (BitVec.ofNat 16 (w % 2 ^ nbits))

end Sys2Proof.Machine
end

