-- ==== Sys2Proof/Machine/Commands.lean ====
section
/-! DEFINITION. The interface of 10_state.md section 12: the six commands, the results they return,
and what the host reads between them. -/

namespace Sys2Proof.Machine

/-- The commands the core accepts (rule R47). -/
inductive Command where
  | reset
  | load (bytes : List Byte)
  | step
  | tick
  | keyDown (code : Nat)
  | keyUp (code : Nat)
deriving DecidableEq, Repr

/-- What a command returns (rules R48 to R52). -/
inductive Result where
  | ok
  /-- FX0A found no key pressed (rule R283). -/
  | waitKey
  /-- The word selects no executor (rule R320). -/
  | unrecognized
  /-- A fatal error, now or earlier (rule R48). -/
  | fatal (code : ErrCode)
  /-- A LOAD of more than 3584 bytes (rule R321). -/
  | loadTooLarge
  /-- A key code above 0xF (rule R322). -/
  | badKey
deriving DecidableEq, Repr

/-- The number of an error code (rule R312). -/
def ErrCode.number : ErrCode → Nat
  | .none => 0
  | .stackOverflow => 1
  | .stackUnderflow => 2
  | .memBounds => 3
  | .fetchBounds => 4

/-- The longest program image, 4096 - 0x200 bytes (rule R5). -/
def maxImage : Nat := 3584

/-- `RESET` (rule R340). The parameters and the oracles are not the machine's state, so a machine that is
reset keeps its parameters and its oracles go on (notes/assumptions/7.md). -/
def State.resetCommand (s : State) : State := State.resetWith s.cfg s.rndDraws s.keyPicks

/-- `LOAD(bytes)`: the copy to 0x200, or nothing at all if it is too large (rule R345, rule R346). -/
def State.load (s : State) (bytes : List Byte) : State :=
  if bytes.length > maxImage then s else (s.writeBytes 0x200 bytes).getD s

/-- `TICK` (rule R49). -/
def State.tickCommand (s : State) : State := if s.halted then s else s.tick

/-- The set with the one key of a code. -/
def keyBit (code : Nat) : BitVec 16 := BitVec.ofNat 16 (2 ^ code)

/-- `KEY_DOWN(k)` (rule R50). -/
def State.keyDown (s : State) (code : Nat) : State :=
  if code > 0xF then s else s.setKeys (s.keys ||| keyBit code)

/-- `KEY_UP(k)` (rule R50). -/
def State.keyUp (s : State) (code : Nat) : State :=
  if code > 0xF then s else s.setKeys (s.keys &&& ~~~ keyBit code)

/-- The state after a command (rule R47). -/
def Command.effect (c : Command) (s : State) : Outcome :=
  match c with
  | .reset => .next s.resetCommand
  | .load bytes => .next (s.load bytes)
  | .step => Sys2Proof.Machine.step s
  | .tick => .next s.tickCommand
  | .keyDown code => .next (s.keyDown code)
  | .keyUp code => .next (s.keyUp code)

/-- What an executor reports: FX0A waits while no key is pressed (rule R283); an instruction that
raised a fatal error reports its code (rule R311); every other instruction reports OK. -/
def execResult (i : Instr) (s : State) : Result :=
  match i, exec i s with
  | .ldVxK _, _ => if s.keys = 0 then .waitKey else .ok
  | _, .next t => if t.halted then .fatal t.err else .ok
  | _, _ => .ok

/-- What STEP returns (rule R48, rule R104). -/
def State.stepResult (s : State) : Result :=
  if s.halted then .fatal s.err
  else
    match s.fetch with
    | none => .fatal .fetchBounds
    | some op =>
      match decodeWord s.cfg op with
      | .error _ => .unrecognized
      | .ok i => execResult i s

/-- What a command returns. -/
def Command.result (c : Command) (s : State) : Result :=
  match c with
  | .reset => .ok
  | .load bytes => if bytes.length > maxImage then .loadTooLarge else .ok
  | .step => s.stepResult
  | .tick => if s.halted then .fatal s.err else .ok
  | .keyDown code => if code > 0xF then .badKey else .ok
  | .keyUp code => if code > 0xF then .badKey else .ok

/-- Commands one after the other (rule R55). -/
def runCommands : List Command → State → Outcome
  | [], s => .next s
  | c :: cs, s =>
    match c.effect s with
    | .next t => runCommands cs t
    | .fault r => .fault r
    | .refused r => .refused r

/-- The output signal `SOUND_ACTIVE` (rule R54, rule R289). -/
def State.soundActive (s : State) : Bool := s.st != 0

/-- `readFramebuffer()`: FB[x][y] (rule R53). -/
def State.pixel (s : State) (x y : Nat) : Bool := s.fb.get x y

/-- `programCounter()` (rule R53). -/
def State.programCounter (s : State) : Word := s.pc

end Sys2Proof.Machine
end

