-- ==== Sys2Proof/Safety.lean ====
section
/-! DEFINITION. What claims are stated in: the machine's invariant, what counts as a safe run, and
names for what an instruction leaves as it was. -/

namespace Sys2Proof.Machine

/-- The invariant of every reachable state: legal parameters (rule R6), memory in its canonical form,
a framebuffer of SCREEN_H rows of SCREEN_W pixels (rule R41), HALTED exactly when ERR is not NONE
(rule R44), pc never above 0x10FE (rule R37) and no stack entry above 0x1000 (rule R140). -/
structure State.Inv (s : State) : Prop where
  cfg_wf : s.cfg.wf
  mem_wf : Memory.wf s.cfg.font s.mem
  fb_wf : Framebuffer.wf s.cfg.screenW s.cfg.screenH s.fb
  halted_iff : s.halted = true ↔ s.err ≠ .none
  pc_le : s.pc.toNat ≤ 0x10FE
  stack_le : ∀ (k : Nat) (h : k < 16), (s.stack[k]).toNat ≤ 0x1000

/-- A step that neither halts nor meets a word no source shows a meaning for: what a claim about a
program takes as its premise (93_implementation_defined.md). -/
def State.StepsSafely (s : State) : Prop :=
  s.halted = false ∧ s.stepResult ≠ .unrecognized ∧ ∀ t, step s = .next t → t.halted = false

/-- n steps, each of them safe. -/
def State.RunsSafely : Nat → State → Prop
  | 0, _ => True
  | n + 1, s => s.StepsSafely ∧ ∀ t, step s = .next t → State.RunsSafely n t

/-- The pixels that the set bits of a sprite fall on, in drawing order: rows in order, and in each row
columns 0 to 7, column 0 being bit 7; every coordinate is reduced modulo the framebuffer's size
(rule R260, rule R262). -/
def spriteHits (w h x0 y0 : Nat) (rows : List Byte) : List (Nat × Nat) :=
  (List.range rows.length).flatMap fun row =>
    ((List.range 8).filter fun col => (rows.getD row 0).getLsbD (7 - col)).map fun col =>
      ((x0 + col) % w, (y0 + row) % h)

/-- The sprite that DXYN draws in a state: the pixels its n bytes at I hit (rule R262). -/
def State.drawnPixels (s : State) (x y : RegIdx) (n : Fin 16) : List (Nat × Nat) :=
  spriteHits s.cfg.screenW s.cfg.screenH (s.reg x).toNat (s.reg y).toNat
    ((List.range n.val).map fun k => s.readByte (s.i.toNat + k))

/-- A pixel is hit an odd number of times. -/
def hitOddly (hits : List (Nat × Nat)) (p : Nat × Nat) : Bool := hits.count p % 2 == 1

/-- Some hit finds its pixel set: set before the draw and hit evenly by the hits before it, or clear
before the draw and hit oddly by them (rule R262, rule R263). -/
def Collides (s : State) (hits : List (Nat × Nat)) : Prop :=
  ∃ (j : Nat) (h : j < hits.length),
    (s.pixel hits[j].1 hits[j].2 != hitOddly (hits.take j) hits[j]) = true

/-- Every general register but those listed holds what it held. -/
def KeepsRegsExcept (written : List RegIdx) (s t : State) : Prop :=
  ∀ r : RegIdx, r ∉ written → t.reg r = s.reg r

/-- Every byte of memory reads as it read. -/
def KeepsMemory (s t : State) : Prop := ∀ a : Nat, t.readByte a = s.readByte a

/-- Every byte of memory outside the n addresses from `a` on reads as it read. -/
def KeepsMemoryOutside (a n : Nat) (s t : State) : Prop :=
  ∀ b : Nat, ¬ (a ≤ b ∧ b < a + n) → t.readByte b = s.readByte b

/-- The call stack and its depth are as they were. -/
def KeepsStack (s t : State) : Prop := t.stack = s.stack ∧ t.sp = s.sp

/-- Both timers are as they were. -/
def KeepsTimers (s t : State) : Prop := t.dt = s.dt ∧ t.st = s.st

/-- Every pixel of the framebuffer is as it was. -/
def KeepsScreen (s t : State) : Prop := t.fb = s.fb

/-- What no instruction that completes writes: the pressed keys, the halt state and the parameters. -/
def KeepsHostState (s t : State) : Prop :=
  t.keys = s.keys ∧ t.halted = s.halted ∧ t.err = s.err ∧ t.cfg = s.cfg

/-- The oracles have given no value. -/
def KeepsOracles (s t : State) : Prop := t.rndDraws = s.rndDraws ∧ t.keyPicks = s.keyPicks

/-- At most the listed registers and pc are written: everything else is as it was. -/
def ChangesOnlyRegs (written : List RegIdx) (s t : State) : Prop :=
  KeepsRegsExcept written s t ∧ t.i = s.i ∧ KeepsStack s t ∧ KeepsTimers s t ∧ KeepsMemory s t ∧
    KeepsScreen s t ∧ KeepsHostState s t ∧ KeepsOracles s t

/-- The byte that an address holds after the bytes bs were stored from address a on. -/
def State.byteAfterStore (s : State) (a : Nat) (bs : List Byte) (b : Nat) : Byte :=
  if a ≤ b ∧ b < a + bs.length then bs.getD (b - a) 0 else s.readByte b

/-- The step of s runs i: the word at pc is in range and decodes to it. -/
def State.Fetches (s : State) (i : Instr) : Prop :=
  ∃ op, s.fetch = some op ∧ decodeWord s.cfg op = .ok i

/-- The word of a number decodes to an instruction. -/
def DecodesTo (cfg : Config) (w : Nat) (i : Instr) : Prop :=
  decodeWord cfg (BitVec.ofNat 16 w) = .ok i

/-- The number of the word with the bits of a row's match, X and NN (rule R101). -/
def wordXNN (m : Nat) (x : RegIdx) (nn : Byte) : Nat := m + 0x100 * x.val + nn.toNat

/-- The number of the word with the bits of a row's match, X, Y and N (rule R101). -/
def wordXYN (m : Nat) (x y n : Fin 16) : Nat := m + 0x100 * x.val + 0x10 * y.val + n.val

/-- The number of the word with the bits of a row's match and NNN (rule R101). -/
def wordNNN (m : Nat) (nnn : Addr) : Nat := m + nnn.toNat

/-- The words of rule R118, by the number of the word: C is w / 4096, N is w % 16, NN is w % 256. -/
def UnrecognizedWord (cfg : Config) (w : Nat) : Prop :=
  (w / 4096 = 0x0 ∧ w % 256 ∉ [0xE0, 0xEE]) ∨
  (w / 4096 = 0x8 ∧ (w % 16 ∈ [0x9, 0xA, 0xB, 0xC, 0xD, 0xF] ∨ (w % 16 = 0xE ∧ cfg.shlAliasE = false))) ∨
  (w / 4096 = 0xE ∧ w % 256 ∉ [0x9E, 0xA1]) ∨
  (w / 4096 = 0xF ∧ w % 256 ∉ [0x07, 0x0A, 0x15, 0x18, 0x1E, 0x29, 0x33, 0x55, 0x65])

/-- The offset from I of the last byte an instruction reaches, if it reaches memory (rule R76). -/
def lastOffset : Instr → Option Nat
  | .drw _ _ n => if n.val = 0 then none else some (n.val - 1)
  | .ldB _ => some 2
  | .ldStore x | .ldLoad x => some x.val
  | .cls | .ret | .jp _ | .call _ | .se _ _ | .sne _ _ | .seR _ _ | .ldI8 _ _ | .addI8 _ _
  | .ldR _ _ | .orR _ _ | .andR _ _ | .xorR _ _ | .addR _ _ | .sub _ _ | .shr _ _ | .subn _ _
  | .shl _ _ | .shlE _ _ | .sneR _ _ | .ldIdx _ | .jpV0 _ | .rnd _ _ | .skp _ | .sknp _
  | .ldVxDt _ | .ldVxK _ | .ldDtVx _ | .ldStVx _ | .addI _ | .ldF _ => none

/-- What makes a step of a running machine raise each fatal error (rule R312, rule R317). -/
def State.FatalCause (s : State) : ErrCode → Prop
  | .none => False
  | .fetchBounds => 0xFFE < s.pc.toNat
  | .stackOverflow => (∃ nnn, s.Fetches (.call nnn)) ∧ s.sp = 16
  | .stackUnderflow => s.Fetches .ret ∧ s.sp = 0
  | .memBounds => ∃ i k, s.Fetches i ∧ lastOffset i = some k ∧ 0xFFF < s.i.toNat + k

/-- The general registers an instruction may write (rule R33). -/
def writtenRegs : Instr → List RegIdx
  | .ldI8 x _ | .addI8 x _ | .ldR x _ | .orR x _ | .andR x _ | .xorR x _ | .rnd x _
  | .ldVxDt x | .ldVxK x => [x]
  | .addR x _ | .sub x _ | .shr x _ | .subn x _ | .shl x _ | .shlE x _ => [x, vf]
  | .drw _ _ _ => [vf]
  | .ldLoad x => (List.finRange 16).filter (fun r => r ≤ x)
  | .cls | .ret | .jp _ | .call _ | .se _ _ | .sne _ _ | .seR _ _ | .sneR _ _ | .ldIdx _ | .jpV0 _
  | .skp _ | .sknp _ | .ldDtVx _ | .ldStVx _ | .addI _ | .ldF _ | .ldB _ | .ldStore _ => []

/-- VF and VX after `FlagOp(fl, res)` (rule R180), as a table of numbers: fl and res are the
instruction's functions of the operand values before it, by FLAG_ORDER and by whether X or Y is F. -/
def FlagTable (fl res : Nat → Nat → Nat) (x y : RegIdx) (s t : State) : Prop :=
  let a := (s.reg x).toNat
  let b := (s.reg y).toNat
  if x = vf then
    (t.reg vf).toNat =
      match s.cfg.flagOrder with
      | .snapshotFlagFirst => res a b
      | .snapshotFlagLast => fl a b
      | .sequential => res (fl a b) (if y = vf then fl a b else b)
  else
    (t.reg vf).toNat = fl a b ∧
      (t.reg x).toNat =
        if s.cfg.flagOrder = .sequential ∧ y = vf then res a (fl a b) else res a b

end Sys2Proof.Machine
end

