-- ==== Sys2Proof/Certificates/Slice0/Obligations.lean ====
section
/-! DEFINITION. The statements for the provers, each after the rule of spec/ its docstring names. Where a
docstring says Derived, a clause rests on a decision D<n> of spec/92_eei_decisions.md, on general knowledge
G<n> of spec/93_implementation_defined.md, or on the log entry it names. -/

open Sys2Proof Sys2Proof.Machine

/-! ## Reset, invariant, commands -/

/-- R57: after RESET, from every state, every piece of state has its reset value. Derived: DT, ST and
KEYS at RESET are decision D15, HALTED and ERR decision D3, and that the parameters stay is the model's
choice (notes/assumptions/7.md). -/
def Obligations.ResetGivesEveryResetValue : Prop :=
  ∀ s : State, Command.result .reset s = .ok ∧ ∃ t, Command.effect .reset s = .next t ∧
    (∀ r, t.reg r = 0) ∧ t.i = 0 ∧ t.pc = 0x0200 ∧ t.sp = 0 ∧
    (∀ (k : Nat) (h : k < 16), t.stack[k] = 0) ∧ t.dt = 0 ∧ t.st = 0 ∧ t.keys = 0 ∧
    (∀ x y, t.pixel x y = false) ∧ Framebuffer.wf s.cfg.screenW s.cfg.screenH t.fb ∧
    t.halted = false ∧ t.err = .none ∧ t.cfg = s.cfg ∧
    (∀ (a : Nat) (h : a < 80), t.readByte a = s.cfg.font[a]) ∧
    ∀ a, 80 ≤ a → t.readByte a = 0

/-- The invariant holds after RESET for every legal choice of parameters, the default ones included.
Derived: the canonical form is the model's (notes/assumptions/5.md), HALTED and ERR are decision D3. -/
def Obligations.InvariantHoldsAtReset : Prop :=
  (∀ (cfg : Config) (n k : Nat), cfg.wf → (State.resetWith cfg n k).Inv) ∧ State.reset.Inv

/-- Every step keeps the invariant (rules R6, R37, R41, R44, R70). Derived: the canonical form is the
model's (notes/assumptions/5.md); the bounds on pc and on stack entries rest on decisions D3, D5 and
D14. -/
def Obligations.StepKeepsInvariant : Prop :=
  ∀ s t : State, s.Inv → step s = .next t → t.Inv

/-- Every sequence of commands keeps the invariant (rule R47, rule R55). Derived, as StepKeepsInvariant.
-/
def Obligations.CommandRunsKeepInvariant : Prop :=
  ∀ (cs : List Command) (s t : State), s.Inv → runCommands cs s = .next t → t.Inv

/-- Every command, from every state, runs to completion with a next state (rule R55). Derived: a fatal
error is a next state by decision D3 (notes/assumptions/8.md). -/
def Obligations.EveryCommandCompletes : Prop :=
  ∀ (c : Command) (s : State), ∃ t, c.effect s = .next t

/-! ## Encoding -/

/-- Decoding the word, or the bytes, of a well-formed instruction gives it back, with every operand.
Derived: the encoder writes ignored bits as zero (notes/assumptions/11.md); the alias is decision D9. -/
def Obligations.DecodeInvertsEncode : Prop :=
  ∀ (cfg : Config) (i : Instr), i.wellFormed cfg = true →
    decodeWord cfg (encode i) = .ok i ∧
      ∀ rest, decodeBytes cfg (encodeBytes i ++ rest) = .ok (i, rest)

/-- R118, the set: a word is rejected exactly when it is one of these. Derived: decisions D6, D9 and
D26. -/
def Obligations.UnrecognizedWordsAreExactlyThese : Prop :=
  ∀ (cfg : Config) (op : Word),
    (∃ u, decodeWord cfg op = .error u) ↔ UnrecognizedWord cfg op.toNat

/-- R101: the fields of a word. -/
def Obligations.FieldsAreTheWordsBits : Prop :=
  ∀ op : Word,
    (fieldC op).toNat = op.toNat / 0x1000 ∧ (fieldX op).val = op.toNat / 0x100 % 0x10 ∧
    (fieldY op).val = op.toNat / 0x10 % 0x10 ∧ (fieldN op).val = op.toNat % 0x10 ∧
    (fieldNN op).toNat = op.toNat % 0x100 ∧ (fieldNNN op).toNat = op.toNat % 0x1000

/-- Words written out from the encodings of the opcode table, one of each class of rule R108. Derived:
the fourth word is the alias of decision D9, decoded by its default. -/
def Obligations.TableWordsDecode : Prop :=
  decodeTableWord 16 0b0000000011100000 = some .cls ∧
  decodeTableWord 16 0b0001001000110100 = some (.jp 0x234) ∧
  decodeTableWord 16 0b1000000100100101 = some (.sub 1 2) ∧
  decodeTableWord 16 0b1000000100101110 = some (.shlE 1 2) ∧
  decodeTableWord 16 0b1101000100101010 = some (.drw 1 2 10) ∧
  decodeTableWord 16 0b1110010110100001 = some (.sknp 5) ∧
  decodeTableWord 16 0b1111111101100101 = some (.ldLoad 15)

/-! ## The step -/

/-- R105, R106: the fetch reads the two bytes at pc and pc + 1, the first being the high one, at an odd
pc as at an even one, and fails exactly above 0xFFE. Derived: decisions D3, D5 and D24
(notes/assumptions/8.md, 9.md, 17.md). -/
def Obligations.FetchIsBigEndianAndBounded : Prop :=
  ∀ s : State,
    (s.pc.toNat ≤ 0xFFE → ∃ op, s.fetch = some op ∧
      op.toNat = (s.readByte s.pc.toNat).toNat * 0x100 + (s.readByte (s.pc.toNat + 1)).toNat) ∧
    (0xFFE < s.pc.toNat → s.fetch = none ∧ s.stepResult = (if s.halted then .fatal s.err else .fatal .fetchBounds) ∧
      (s.halted = false → step s = .next (s.halt .fetchBounds)))

/-- R104, R48: when the two bytes at pc are those of a well-formed instruction, or decode to one, the
step is that instruction, and then the timer tick unless a fatal error was raised or TIMERS_IN_STEP is
false; STEP returns the status R48 names for it. Derived: the status values and the skipped tick are
decision D3, the tick parameter decision D2; the status is computed from the state before the step
(notes/assumptions/12.md). -/
def Obligations.StepRunsTheDecodedInstruction : Prop :=
  ∀ (s : State) (i : Instr), s.halted = false → s.pc.toNat ≤ 0xFFE →
    (decodeWord s.cfg (wordOfBytes (s.readByte s.pc.toNat) (s.readByte (s.pc.toNat + 1))) = .ok i ∨
      (i.wellFormed s.cfg = true ∧
        [s.readByte s.pc.toNat, s.readByte (s.pc.toNat + 1)] = encodeBytes i)) →
    ∃ t, exec i s = .next t ∧
      step s = .next (if t.halted then t else if t.cfg.timersInStep then t.tick else t) ∧
      (t.halted = true → s.stepResult = .fatal t.err) ∧
      (t.halted = false → (∀ x, i ≠ .ldVxK x) → s.stepResult = .ok) ∧
      ∀ x, i = .ldVxK x → s.stepResult = if s.keys = 0 then .waitKey else .ok

/-- R320: an unrecognized word advances pc by 2 and changes nothing else; then the timers tick. Derived:
decision D6 (notes/assumptions/10.md). -/
def Obligations.UnrecognizedStepOnlyAdvances : Prop :=
  ∀ (s : State) (op : Word), s.halted = false → s.fetch = some op → UnrecognizedWord s.cfg op.toNat →
    s.stepResult = .unrecognized ∧
    ∃ t, step s = .next t ∧ t.pc = s.pc + 2 ∧
      t.dt.toNat = (if s.cfg.timersInStep then s.dt.toNat - 1 else s.dt.toNat) ∧
      t.st.toNat = (if s.cfg.timersInStep then s.st.toNat - 1 else s.st.toNat) ∧
      KeepsRegsExcept [] s t ∧ t.i = s.i ∧ KeepsStack s t ∧ KeepsMemory s t ∧ KeepsScreen s t ∧
      KeepsHostState s t ∧ KeepsOracles s t

/-- R48, R49: while HALTED, STEP and TICK change nothing and return FATAL(ERR). Derived: decision D3
(notes/assumptions/8.md). -/
def Obligations.HaltedMachineStandsStill : Prop :=
  ∀ s : State, s.halted = true →
    (step s = .next s ∧ s.stepResult = .fatal s.err) ∧
    (Command.effect .tick s = .next s ∧ Command.result .tick s = .fatal s.err) ∧
    ∀ k, Host.Core.run Sys2Proof.core k s = .next s

/-- R311: a step that raises a fatal error changes nothing but HALTED and ERR, with no tick, and returns
FATAL of that code. Derived: decision D3 (notes/assumptions/8.md). -/
def Obligations.FatalStepChangesOnlyHaltState : Prop :=
  ∀ s t : State, s.halted = false → step s = .next t → t.halted = true →
    t = { s with halted := true, err := t.err } ∧ t.err ≠ .none ∧ s.stepResult = .fatal t.err

/-- R312, R317: a step of a running machine raises each fatal error exactly for its own cause, and no
two causes hold together. Derived: decisions D3, D4 and D5, and the order of R317 (marked derived
there). -/
def Obligations.StepHaltsExactlyForTheseCauses : Prop :=
  ∀ (s : State) (e : ErrCode), s.halted = false →
    ((∃ t, step s = .next t ∧ t.halted = true ∧ t.err = e) ↔ s.FatalCause e) ∧
    (s.stepResult = .fatal e ↔ s.FatalCause e) ∧
    ∀ e', s.FatalCause e → s.FatalCause e' → e = e'

/-! ## Control transfer -/

/-- R140. Derived: decisions D3, D14 and D26 (notes/assumptions/8.md, 13.md, 11.md). -/
def Obligations.RetPopsTheReturnAddress : Prop :=
  ∀ s : State,
    (∀ x : RegIdx, DecodesTo s.cfg (wordXNN 0x0000 x 0xEE) .ret) ∧
    (s.sp = 0 → exec .ret s = .next { s with halted := true, err := .stackUnderflow }) ∧
    ∀ h : 0 < s.sp.val, ∃ t, exec .ret s = .next t ∧ t.sp.val = s.sp.val - 1 ∧
      t.pc = s.stack[s.sp.val - 1]'(by omega) ∧ t.stack = s.stack ∧
      KeepsRegsExcept [] s t ∧ t.i = s.i ∧ KeepsTimers s t ∧ KeepsMemory s t ∧ KeepsScreen s t ∧
      KeepsHostState s t ∧ KeepsOracles s t

/-- R141. -/
def Obligations.JpGoesToItsAddress : Prop :=
  ∀ (nnn : Addr) (s : State), DecodesTo s.cfg (wordNNN 0x1000 nnn) (.jp nnn) ∧
    ∃ t, exec (.jp nnn) s = .next t ∧ t.pc.toNat = nnn.toNat ∧ ChangesOnlyRegs [] s t

/-- R142. Derived: decisions D3 and D14 (notes/assumptions/8.md, 13.md). -/
def Obligations.CallPushesTheNextAddress : Prop :=
  ∀ (nnn : Addr) (s : State),
    DecodesTo s.cfg (wordNNN 0x2000 nnn) (.call nnn) ∧
    (s.sp = 16 → exec (.call nnn) s = .next { s with halted := true, err := .stackOverflow }) ∧
    ∀ h : s.sp.val < 16, ∃ t, exec (.call nnn) s = .next t ∧ t.sp.val = s.sp.val + 1 ∧
      t.pc.toNat = nnn.toNat ∧ t.stack[s.sp.val] = s.pc + 2 ∧
      (∀ (k : Nat) (hk : k < 16), k ≠ s.sp.val → t.stack[k] = s.stack[k]) ∧
      KeepsRegsExcept [] s t ∧ t.i = s.i ∧ KeepsTimers s t ∧ KeepsMemory s t ∧ KeepsScreen s t ∧
      KeepsHostState s t ∧ KeepsOracles s t

/-- R143, R144. -/
def Obligations.SkipsComparingWithImmediate : Prop :=
  ∀ (x : RegIdx) (nn : Byte) (s : State),
    DecodesTo s.cfg (wordXNN 0x3000 x nn) (.se x nn) ∧ DecodesTo s.cfg (wordXNN 0x4000 x nn) (.sne x nn) ∧
    (∃ t, exec (.se x nn) s = .next t ∧ ChangesOnlyRegs [] s t ∧
      t.pc = if s.reg x = nn then s.pc + 4 else s.pc + 2) ∧
    ∃ t, exec (.sne x nn) s = .next t ∧ ChangesOnlyRegs [] s t ∧
      t.pc = if s.reg x ≠ nn then s.pc + 4 else s.pc + 2

/-- R145, R146, with the ignored bits. Derived: the ignored bits are decision D26
(notes/assumptions/11.md). -/
def Obligations.SkipsComparingRegisters : Prop :=
  ∀ (x y n : Fin 16) (s : State),
    DecodesTo s.cfg (wordXYN 0x5000 x y n) (.seR x y) ∧ DecodesTo s.cfg (wordXYN 0x9000 x y n) (.sneR x y) ∧
    (∃ t, exec (.seR x y) s = .next t ∧ ChangesOnlyRegs [] s t ∧
      t.pc = if s.reg x = s.reg y then s.pc + 4 else s.pc + 2) ∧
    ∃ t, exec (.sneR x y) s = .next t ∧ ChangesOnlyRegs [] s t ∧
      t.pc = if s.reg x ≠ s.reg y then s.pc + 4 else s.pc + 2

/-- R147: the register is always V0, and the sum is not reduced to 12 bits. -/
def Obligations.JpV0AddsV0 : Prop :=
  ∀ (nnn : Addr) (s : State), DecodesTo s.cfg (wordNNN 0xB000 nnn) (.jpV0 nnn) ∧
    ∃ t, exec (.jpV0 nnn) s = .next t ∧ t.pc.toNat = nnn.toNat + (s.reg 0).toNat ∧
      t.pc.toNat ≤ 0x10FE ∧ ChangesOnlyRegs [] s t

/-- A CALL and then a RET go to the instruction after the call, with the depth as before (L1-6 of
95_test_vectors.md; rule R142, rule R140). Derived: R140 and R142 with decision D14
(notes/assumptions/13.md). -/
def Obligations.CallThenRetReturnsAfterTheCall : Prop :=
  ∀ (nnn : Addr) (s : State), s.sp.val < 16 →
    ∃ t u, exec (.call nnn) s = .next t ∧ exec .ret t = .next u ∧
      u.pc = s.pc + 2 ∧ u.sp = s.sp ∧ ChangesOnlyRegs [] { s with stack := u.stack } u ∧
      ∀ (k : Nat) (h : k < 16), k ≠ s.sp.val → u.stack[k] = s.stack[k]

/-! ## Register arithmetic, logic and random -/

/-- R181, R182. -/
def Obligations.LoadAndAddImmediate : Prop :=
  ∀ (x : RegIdx) (nn : Byte) (s : State),
    DecodesTo s.cfg (wordXNN 0x6000 x nn) (.ldI8 x nn) ∧ DecodesTo s.cfg (wordXNN 0x7000 x nn) (.addI8 x nn) ∧
    (∃ t, exec (.ldI8 x nn) s = .next t ∧ t.reg x = nn ∧ t.pc = s.pc + 2 ∧ ChangesOnlyRegs [x] s t) ∧
    ∃ t, exec (.addI8 x nn) s = .next t ∧ (t.reg x).toNat = ((s.reg x).toNat + nn.toNat) % 256 ∧
      t.pc = s.pc + 2 ∧ ChangesOnlyRegs [x] s t

/-- R183, R184, R185, R186: copy, or, and, xor, bit by bit; no other register, VF included, is written. -/
def Obligations.CopyAndLogic : Prop :=
  ∀ (x y : RegIdx) (s : State),
    DecodesTo s.cfg (wordXYN 0x8000 x y 0) (.ldR x y) ∧ DecodesTo s.cfg (wordXYN 0x8001 x y 0) (.orR x y) ∧
    DecodesTo s.cfg (wordXYN 0x8002 x y 0) (.andR x y) ∧ DecodesTo s.cfg (wordXYN 0x8003 x y 0) (.xorR x y) ∧
    (∃ t, exec (.ldR x y) s = .next t ∧ t.reg x = s.reg y ∧ t.pc = s.pc + 2 ∧ ChangesOnlyRegs [x] s t) ∧
    (∃ t, exec (.orR x y) s = .next t ∧ t.pc = s.pc + 2 ∧ ChangesOnlyRegs [x] s t ∧
      ∀ k, (t.reg x).getLsbD k = ((s.reg x).getLsbD k || (s.reg y).getLsbD k)) ∧
    (∃ t, exec (.andR x y) s = .next t ∧ t.pc = s.pc + 2 ∧ ChangesOnlyRegs [x] s t ∧
      ∀ k, (t.reg x).getLsbD k = ((s.reg x).getLsbD k && (s.reg y).getLsbD k)) ∧
    ∃ t, exec (.xorR x y) s = .next t ∧ t.pc = s.pc + 2 ∧ ChangesOnlyRegs [x] s t ∧
      ∀ k, (t.reg x).getLsbD k = ((s.reg x).getLsbD k != (s.reg y).getLsbD k)

/-- R187, for every FLAG_ORDER and for X or Y equal to F (R180). Derived: the clauses for X = F or Y = F
are the readings of R180, decision D7 (notes/assumptions/24.md), for every FLAG_ORDER. -/
def Obligations.AddSetsCarry : Prop :=
  ∀ (x y : RegIdx) (s : State), DecodesTo s.cfg (wordXYN 0x8004 x y 0) (.addR x y) ∧
    ∃ t, exec (.addR x y) s = .next t ∧ t.pc = s.pc + 2 ∧ ChangesOnlyRegs [x, vf] s t ∧
      FlagTable (fun a b => if a + b > 255 then 1 else 0) (fun a b => (a + b) % 256) x y s t

/-- R188: VF is 1 exactly on a borrow, with equal operands giving 0. Derived: the clauses for X = F or Y
= F are the readings of R180, decision D7 (notes/assumptions/24.md), for every FLAG_ORDER. -/
def Obligations.SubSetsBorrow : Prop :=
  ∀ (x y : RegIdx) (s : State), DecodesTo s.cfg (wordXYN 0x8005 x y 0) (.sub x y) ∧
    ∃ t, exec (.sub x y) s = .next t ∧ t.pc = s.pc + 2 ∧ ChangesOnlyRegs [x, vf] s t ∧
      FlagTable (fun a b => if b > a then 1 else 0) (fun a b => (a + 256 - b) % 256) x y s t

/-- R189: VF is bit 0 of VX before the shift; VY is not an operand. Derived: the clause for X = F rests
on the readings of R180, decision D7 (notes/assumptions/24.md), for every FLAG_ORDER. -/
def Obligations.ShrShiftsRightByOne : Prop :=
  ∀ (x y : RegIdx) (s : State), DecodesTo s.cfg (wordXYN 0x8006 x y 0) (.shr x y) ∧
    ∃ t, exec (.shr x y) s = .next t ∧ t.pc = s.pc + 2 ∧ ChangesOnlyRegs [x, vf] s t ∧
      FlagTable (fun a _ => a % 2) (fun a _ => a / 2) x y s t

/-- R190: VF is 0 exactly when VX > VY. Derived: the clauses for X = F or Y = F are the readings of
R180, decision D7 (notes/assumptions/24.md), for every FLAG_ORDER. -/
def Obligations.SubnSetsNotBorrow : Prop :=
  ∀ (x y : RegIdx) (s : State), DecodesTo s.cfg (wordXYN 0x8007 x y 0) (.subn x y) ∧
    ∃ t, exec (.subn x y) s = .next t ∧ t.pc = s.pc + 2 ∧ ChangesOnlyRegs [x, vf] s t ∧
      FlagTable (fun a b => if a > b then 0 else 1) (fun a b => (b + 256 - a) % 256) x y s t

/-- R191, both encodings and both values of SHL_FLAG; 8XYE decodes exactly where SHL_ALIAS_E is true.
Derived: decisions D7, D8 and D9, for every value of the three parameters. -/
def Obligations.ShlShiftsLeftByOne : Prop :=
  ∀ (x y : RegIdx) (s : State), DecodesTo s.cfg (wordXYN 0x8008 x y 0) (.shl x y) ∧
    (s.cfg.shlAliasE = true ↔ DecodesTo s.cfg (wordXYN 0x800E x y 0) (.shlE x y)) ∧
    ∃ t, exec (.shl x y) s = .next t ∧ exec (.shlE x y) s = .next t ∧ t.pc = s.pc + 2 ∧
      ChangesOnlyRegs [x, vf] s t ∧
      FlagTable (fun a _ => if s.cfg.shlFlag = .msb then a / 128 else if a % 16 ≠ 0 then 1 else 0)
        (fun a _ => 2 * a % 256) x y s t

/-- R180: away from VF the three readings of FLAG_ORDER give the same state. Derived: R180 under the
parameter of decision D7 (notes/assumptions/24.md). -/
def Obligations.FlagOrdersAgreeAwayFromVF : Prop :=
  ∀ (x y : RegIdx) (i : Instr) (s t u : State) (o : FlagOrder), x ≠ vf → y ≠ vf →
    i ∈ [Instr.addR x y, .sub x y, .shr x y, .subn x y, .shl x y, .shlE x y] →
    exec i s = .next t → exec i { s with cfg := { s.cfg with flagOrder := o } } = .next u →
    u = { t with cfg := { s.cfg with flagOrder := o } }

/-- R192: VX takes NN and the next byte of RND, and exactly one byte is drawn; whatever the byte.
Derived: RND is the oracle of R12 and decision D17; that the next byte is Config.rndByte at rndDraws,
and that rndDraws counts the draws, is the model's choice (notes/assumptions/3.md). -/
def Obligations.RndMasksOneDrawnByte : Prop :=
  ∀ (x : RegIdx) (nn : Byte) (s : State), DecodesTo s.cfg (wordXNN 0xC000 x nn) (.rnd x nn) ∧
    ∃ t, exec (.rnd x nn) s = .next t ∧ t.pc = s.pc + 2 ∧
      (∀ k, (t.reg x).getLsbD k = (nn.getLsbD k && (Config.rndByte s.rndDraws).getLsbD k)) ∧
      t.rndDraws = s.rndDraws + 1 ∧ t.keyPicks = s.keyPicks ∧
      KeepsRegsExcept [x] s t ∧ t.i = s.i ∧ KeepsStack s t ∧ KeepsTimers s t ∧ KeepsMemory s t ∧
      KeepsScreen s t ∧ KeepsHostState s t

/-! ## Index register and memory transfer -/

/-- R230, R231, R232: I is loaded, added to modulo 65536, or pointed at a glyph; VF is not written. -/
def Obligations.IndexInstructionsSetI : Prop :=
  ∀ (nnn : Addr) (x : RegIdx) (s : State),
    DecodesTo s.cfg (wordNNN 0xA000 nnn) (.ldIdx nnn) ∧ DecodesTo s.cfg (wordXNN 0xF000 x 0x1E) (.addI x) ∧
    DecodesTo s.cfg (wordXNN 0xF000 x 0x29) (.ldF x) ∧
    (∃ t, exec (.ldIdx nnn) s = .next t ∧ t.i.toNat = nnn.toNat ∧ t.pc = s.pc + 2 ∧
      ChangesOnlyRegs [] { s with i := t.i } t) ∧
    (∃ t, exec (.addI x) s = .next t ∧ t.i.toNat = (s.i.toNat + (s.reg x).toNat) % 65536 ∧
      t.pc = s.pc + 2 ∧ ChangesOnlyRegs [] { s with i := t.i } t) ∧
    ∃ t, exec (.ldF x) s = .next t ∧ t.i.toNat = (s.reg x).toNat * 5 ∧ t.pc = s.pc + 2 ∧
      ChangesOnlyRegs [] { s with i := t.i } t

/-- R233: the three digits at I, I + 1, I + 2, or nothing written at all. Derived: decisions D3, D4 and
D11 (notes/assumptions/8.md, 9.md, 18.md). -/
def Obligations.BcdStoresThreeDigits : Prop :=
  ∀ (x : RegIdx) (s : State),
    DecodesTo s.cfg (wordXNN 0xF000 x 0x33) (.ldB x) ∧
    (0xFFF < s.indexAddr + 2 → exec (.ldB x) s = .next { s with halted := true, err := .memBounds }) ∧
    (s.indexAddr + 2 ≤ 0xFFF → ∃ t, exec (.ldB x) s = .next t ∧
      (t.readByte s.indexAddr).toNat = (s.reg x).toNat / 100 ∧
      (t.readByte (s.indexAddr + 1)).toNat = (s.reg x).toNat / 10 % 10 ∧
      (t.readByte (s.indexAddr + 2)).toNat = (s.reg x).toNat % 10 ∧
      KeepsMemoryOutside s.indexAddr 3 s t ∧ t.pc = s.pc + 2 ∧ t.i = s.i ∧ KeepsRegsExcept [] s t ∧
      KeepsStack s t ∧ KeepsTimers s t ∧ KeepsScreen s t ∧ KeepsHostState s t ∧ KeepsOracles s t)

/-- R234: V0 to VX at I, I + 1, …, or nothing written at all; I is unchanged. Derived: decisions D3, D4
and D11 (notes/assumptions/8.md, 9.md, 18.md). -/
def Obligations.StoreWritesRegistersFromI : Prop :=
  ∀ (x : RegIdx) (s : State),
    DecodesTo s.cfg (wordXNN 0xF000 x 0x55) (.ldStore x) ∧
    (0xFFF < s.indexAddr + x.val → exec (.ldStore x) s = .next { s with halted := true, err := .memBounds }) ∧
    (s.indexAddr + x.val ≤ 0xFFF → ∃ t, exec (.ldStore x) s = .next t ∧
      (∀ r : RegIdx, r ≤ x → t.readByte (s.indexAddr + r.val) = s.reg r) ∧
      KeepsMemoryOutside s.indexAddr (x.val + 1) s t ∧ t.pc = s.pc + 2 ∧ t.i = s.i ∧
      KeepsRegsExcept [] s t ∧ KeepsStack s t ∧ KeepsTimers s t ∧ KeepsScreen s t ∧
      KeepsHostState s t ∧ KeepsOracles s t)

/-- R235: V0 to VX from I, I + 1, …, or no register written at all; I is unchanged. Derived: decisions
D3, D4 and D11 (notes/assumptions/8.md, 9.md, 18.md). -/
def Obligations.LoadReadsRegistersFromI : Prop :=
  ∀ (x : RegIdx) (s : State),
    DecodesTo s.cfg (wordXNN 0xF000 x 0x65) (.ldLoad x) ∧
    (0xFFF < s.indexAddr + x.val → exec (.ldLoad x) s = .next { s with halted := true, err := .memBounds }) ∧
    (s.indexAddr + x.val ≤ 0xFFF → ∃ t, exec (.ldLoad x) s = .next t ∧
      (∀ r : RegIdx, r ≤ x → t.reg r = s.readByte (s.indexAddr + r.val)) ∧
      (∀ r : RegIdx, x < r → t.reg r = s.reg r) ∧ t.pc = s.pc + 2 ∧ t.i = s.i ∧ KeepsMemory s t ∧
      KeepsStack s t ∧ KeepsTimers s t ∧ KeepsScreen s t ∧ KeepsHostState s t ∧ KeepsOracles s t)

/-- Registers stored with FX55 come back with FX65, whatever they hold in between (rule R234, R235).
Derived: decisions D4 and D11 (notes/assumptions/9.md, 18.md). -/
def Obligations.StoreThenLoadRestoresRegisters : Prop :=
  ∀ (x : RegIdx) (s t : State) (v : Vector Byte 16), s.i.toNat + x.val ≤ 0xFFF →
    exec (.ldStore x) s = .next t →
    ∃ u, exec (.ldLoad x) { t with v := v } = .next u ∧ ∀ r : RegIdx, r ≤ x → u.reg r = s.reg r

/-- R74, R75: a byte access fails exactly above 0xFFF; a read after a write gives the byte written, and
every other address reads as before; the canonical form of memory is kept. Derived: the bound is
decision D4 (notes/assumptions/9.md), the canonical form the model's (notes/assumptions/5.md). -/
def Obligations.ByteReadAfterWrite : Prop :=
  ∀ (s : State) (a : Nat) (v : Byte),
    (s.memRead a = none ↔ 0xFFF < a) ∧ (s.memWrite a v = none ↔ 0xFFF < a) ∧
    ∀ t, s.memWrite a v = some t →
      t.memRead a = some v ∧ (∀ b, b ≠ a → t.memRead b = s.memRead b) ∧ t = s.setMem t.mem ∧
      (Memory.wf s.cfg.font s.mem → Memory.wf t.cfg.font t.mem)

/-- R84: the bytes FX33 and FX55 store are the bytes the next fetch sees, at every address. Derived:
decision D25 (notes/assumptions/25.md). -/
def Obligations.FetchSeesStoredBytes : Prop :=
  ∀ (x : RegIdx) (s t : State) (i : Instr) (bs : List Byte),
    (i, bs) ∈ [(Instr.ldB x, bcdDigits (s.reg x)), (Instr.ldStore x, s.regsUpTo x)] →
    s.indexAddr + bs.length ≤ 0x1000 → exec i s = .next t →
    ∀ p : Word, p.toNat ≤ 0xFFE →
      (t.setPc p).fetch =
        some (wordOfBytes (s.byteAfterStore s.indexAddr bs p.toNat)
          (s.byteAfterStore s.indexAddr bs (p.toNat + 1)))

/-! ## Framebuffer -/

/-- R261. Derived: the ignored bits are decision D26 (notes/assumptions/11.md). -/
def Obligations.ClsClearsEveryPixel : Prop :=
  ∀ s : State, (∀ x : RegIdx, DecodesTo s.cfg (wordXNN 0x0000 x 0xE0) .cls) ∧
    ∃ t, exec .cls s = .next t ∧ (∀ x y, t.pixel x y = false) ∧
      Framebuffer.wf s.cfg.screenW s.cfg.screenH t.fb ∧ t.pc = s.pc + 2 ∧
      ChangesOnlyRegs [] { s with fb := t.fb } t

/-- R262, R260: each pixel is flipped as often as a set sprite bit hits it, VF is 1 exactly when a hit
found its pixel set, and out of range nothing happens; for every framebuffer size. Derived: decisions
D3, D4 and D10 (notes/assumptions/8.md, 9.md, 19.md). -/
def Obligations.DrwXorsTheSprite : Prop :=
  ∀ (x y : RegIdx) (n : Fin 16) (s : State),
    DecodesTo s.cfg (wordXYN 0xD000 x y n) (.drw x y n) ∧
    (0 < n.val → 0xFFF < s.indexAddr + n.val - 1 →
      exec (.drw x y n) s = .next { s with halted := true, err := .memBounds }) ∧
    (s.cfg.wf → Framebuffer.wf s.cfg.screenW s.cfg.screenH s.fb →
      (n.val = 0 ∨ s.indexAddr + n.val - 1 ≤ 0xFFF) →
      ∃ t, exec (.drw x y n) s = .next t ∧
        (∀ px py, t.pixel px py = (s.pixel px py != hitOddly (s.drawnPixels x y n) (px, py))) ∧
        (Collides s (s.drawnPixels x y n) → t.reg vf = 1) ∧
        (¬ Collides s (s.drawnPixels x y n) → t.reg vf = 0) ∧
        Framebuffer.wf s.cfg.screenW s.cfg.screenH t.fb ∧ t.pc = s.pc + 2 ∧
        ChangesOnlyRegs [vf] { s with fb := t.fb } t)

/-- R263: drawing the same sprite twice at the same place restores the framebuffer; when no pixel is hit
twice, as always where SCREEN_W is at least 8 and SCREEN_H at least N, the second draw reports 1 exactly
when some pixel under a set sprite bit was unset before the first. Derived: R263 derives it from R262;
decisions D4 and D10. -/
def Obligations.DrawingTwiceRestoresTheScreen : Prop :=
  ∀ (x y : RegIdx) (n : Fin 16) (s : State), s.cfg.wf →
    Framebuffer.wf s.cfg.screenW s.cfg.screenH s.fb → x ≠ vf → y ≠ vf →
    (n.val = 0 ∨ s.indexAddr + n.val - 1 ≤ 0xFFF) →
    (8 ≤ s.cfg.screenW → n.val ≤ s.cfg.screenH → (s.drawnPixels x y n).Nodup) ∧
    ∃ t u, exec (.drw x y n) s = .next t ∧ exec (.drw x y n) t = .next u ∧ u.fb = s.fb ∧
      ((s.drawnPixels x y n).Nodup →
        (u.reg vf = 1 ↔ ∃ p ∈ s.drawnPixels x y n, s.pixel p.1 p.2 = false) ∧
        (u.reg vf = 0 ↔ ∀ p ∈ s.drawnPixels x y n, s.pixel p.1 p.2 = true))

/-! ## Keys and timers -/

/-- R281, R282: a code above 0xF is never pressed. Derived: decision D12 (notes/assumptions/20.md). -/
def Obligations.SkipsOnKeys : Prop :=
  ∀ (x : RegIdx) (s : State),
    DecodesTo s.cfg (wordXNN 0xE000 x 0x9E) (.skp x) ∧ DecodesTo s.cfg (wordXNN 0xE000 x 0xA1) (.sknp x) ∧
    (∃ t, exec (.skp x) s = .next t ∧ ChangesOnlyRegs [] s t ∧
      t.pc = if (s.reg x).toNat ≤ 0xF ∧ s.keys.getLsbD (s.reg x).toNat = true then s.pc + 4 else s.pc + 2) ∧
    ∃ t, exec (.sknp x) s = .next t ∧ ChangesOnlyRegs [] s t ∧
      t.pc = if (s.reg x).toNat ≤ 0xF ∧ s.keys.getLsbD (s.reg x).toNat = true then s.pc + 2 else s.pc + 4

/-- R283: FX0A with no key pressed leaves the state as it is and the step returns WAIT_KEY; with keys
pressed VX takes the code of one of them, whichever it is. Derived: decisions D3 and D13; the choice is
the free value of notes/assumptions/4.md. -/
def Obligations.WaitForKey : Prop :=
  ∀ (x : RegIdx) (s : State),
    DecodesTo s.cfg (wordXNN 0xF000 x 0x0A) (.ldVxK x) ∧
    (s.keys = 0 → exec (.ldVxK x) s = .next s ∧
      (s.halted = false → s.Fetches (.ldVxK x) → s.stepResult = .waitKey ∧
        step s = .next (if s.cfg.timersInStep then s.tick else s))) ∧
    (s.keys ≠ 0 → ∃ t, exec (.ldVxK x) s = .next t ∧
      (t.reg x).toNat ≤ 0xF ∧ s.keys.getLsbD (t.reg x).toNat = true ∧ t.pc = s.pc + 2 ∧
      t.keyPicks = s.keyPicks + 1 ∧ t.rndDraws = s.rndDraws ∧
      KeepsRegsExcept [x] s t ∧ t.i = s.i ∧ KeepsStack s t ∧ KeepsTimers s t ∧ KeepsMemory s t ∧
      KeepsScreen s t ∧ KeepsHostState s t ∧
      (s.halted = false → s.Fetches (.ldVxK x) → s.stepResult = .ok))

/-- R284, R285, R286. Derived: which code does what is general knowledge (G4, notes/assumptions/6.md).
-/
def Obligations.TimerInstructions : Prop :=
  ∀ (x : RegIdx) (s : State),
    DecodesTo s.cfg (wordXNN 0xF000 x 0x07) (.ldVxDt x) ∧ DecodesTo s.cfg (wordXNN 0xF000 x 0x15) (.ldDtVx x) ∧
    DecodesTo s.cfg (wordXNN 0xF000 x 0x18) (.ldStVx x) ∧
    (∃ t, exec (.ldVxDt x) s = .next t ∧ t.reg x = s.dt ∧ t.pc = s.pc + 2 ∧ ChangesOnlyRegs [x] s t) ∧
    (∃ t, exec (.ldDtVx x) s = .next t ∧ t.dt = s.reg x ∧ t.pc = s.pc + 2 ∧
      ChangesOnlyRegs [] { s with dt := t.dt } t) ∧
    ∃ t, exec (.ldStVx x) s = .next t ∧ t.st = s.reg x ∧ t.pc = s.pc + 2 ∧
      ChangesOnlyRegs [] { s with st := t.st } t

/-- R351: with TIMERS_IN_STEP an FX15 or FX18 value has been counted down once when its step ends, and
FX07 reads the delay timer before its own step's tick. Derived: the three codes are general knowledge
(G4, notes/assumptions/6.md). -/
def Obligations.TimerStepsTickAfterTheInstruction : Prop :=
  ∀ (x : RegIdx) (s : State), s.halted = false → s.cfg.timersInStep = true →
    (s.Fetches (.ldDtVx x) → ∃ t, step s = .next t ∧ t.dt.toNat = (s.reg x).toNat - 1 ∧
      t.st.toNat = s.st.toNat - 1) ∧
    (s.Fetches (.ldStVx x) → ∃ t, step s = .next t ∧ t.st.toNat = (s.reg x).toNat - 1 ∧
      t.dt.toNat = s.dt.toNat - 1) ∧
    (s.Fetches (.ldVxDt x) → ∃ t, step s = .next t ∧ t.reg x = s.dt ∧ t.dt.toNat = s.dt.toNat - 1)

/-- R287, R49: one tick counts each timer down by 1, never below zero, and changes nothing else; it runs
once per TICK command, and once at the end of every STEP that raises no fatal error where
TIMERS_IN_STEP; TICK returns OK. Derived: decisions D2, D3 and D6. -/
def Obligations.TickCountsBothTimersDown : Prop :=
  ∀ s : State, s.halted = false → Command.result .tick s = .ok ∧
    (∃ t, Command.effect .tick s = .next t ∧ t.dt.toNat = s.dt.toNat - 1 ∧ t.st.toNat = s.st.toNat - 1 ∧
      t.pc = s.pc ∧ ChangesOnlyRegs [] { s with dt := t.dt, st := t.st } t) ∧
    (∀ i t, s.Fetches i → exec i s = .next t → t.halted = false →
      step s = (if s.cfg.timersInStep then Command.effect .tick t else .next t)) ∧
    (∀ op, s.fetch = some op → UnrecognizedWord s.cfg op.toNat →
      step s = (if s.cfg.timersInStep then Command.effect .tick { s with pc := s.pc + 2 }
        else .next { s with pc := s.pc + 2 }))

/-- R54, R289: the sound signal is on exactly while ST is not 0; the tick that takes ST from 1 ends it.
Derived: decision D21 (notes/assumptions/22.md). -/
def Obligations.SoundSignalFollowsSoundTimer : Prop :=
  ∀ s : State, (s.soundActive = true ↔ s.st.toNat ≠ 0) ∧
    (s.tick.soundActive = true ↔ 2 ≤ s.st.toNat)

/-! ## Whole-machine rules -/

/-- R33: no instruction writes a general register but those rule R33 lists for it. Derived: R33 marks
its list derived in part. -/
def Obligations.OnlyListedRegistersAreWritten : Prop :=
  ∀ (i : Instr) (s t : State), exec i s = .next t → KeepsRegsExcept (writtenRegs i) s t

/-- R35: I is written only by ANNN, FX1E and FX29. Derived: decision D11 (notes/assumptions/18.md). -/
def Obligations.OnlyThreeInstructionsWriteI : Prop :=
  ∀ (i : Instr) (s t : State), exec i s = .next t →
    (∀ nnn, i ≠ .ldIdx nnn) → (∀ x, i ≠ .addI x) → (∀ x, i ≠ .ldF x) → t.i = s.i

/-- R39: only 2NNN and 00EE touch the stack, and no pop changes an entry. Derived: that a pop leaves the
entry is decision D14 (notes/assumptions/13.md). -/
def Obligations.OnlyCallAndRetTouchTheStack : Prop :=
  ∀ (i : Instr) (s t : State), exec i s = .next t → (∀ nnn, i ≠ .call nnn) →
    t.stack = s.stack ∧ (i ≠ .ret → t.sp = s.sp)

/-- R264: only CLS and DRW, and RESET, change the framebuffer: no other command does. -/
def Obligations.OnlyClsDrwResetChangeTheScreen : Prop :=
  (∀ (i : Instr) (s t : State), exec i s = .next t → i ≠ .cls → (∀ x y n, i ≠ .drw x y n) →
    t.fb = s.fb) ∧
  ∀ (c : Command) (s t : State), c.effect s = .next t → c ≠ .reset → t.fb ≠ s.fb →
    c = .step ∧ (s.Fetches .cls ∨ ∃ x y n, s.Fetches (.drw x y n))

/-- R77, R85: no instruction but FX33 and FX55 changes memory, and no command but LOAD, RESET and a STEP
that runs one of them. Derived from R77 and R85, which say who reaches memory. -/
def Obligations.OnlyStoresChangeMemory : Prop :=
  (∀ (i : Instr) (s t : State), exec i s = .next t → (∀ x, i ≠ .ldB x) → (∀ x, i ≠ .ldStore x) →
    KeepsMemory s t) ∧
  ∀ (c : Command) (s t : State), c.effect s = .next t → c ≠ .reset → (∀ bs, c ≠ .load bs) →
    ¬ KeepsMemory s t → c = .step ∧ ∃ x, s.Fetches (.ldB x) ∨ s.Fetches (.ldStore x)

/-- R42: no instruction writes KEYS: only KEY_DOWN, KEY_UP and RESET change it. -/
def Obligations.OnlyKeyCommandsChangeKeys : Prop :=
  (∀ (i : Instr) (s t : State), exec i s = .next t → t.keys = s.keys) ∧
  ∀ (c : Command) (s t : State), c.effect s = .next t → t.keys ≠ s.keys →
    c = .reset ∨ (∃ k, c = .keyDown k) ∨ ∃ k, c = .keyUp k

/-- R44, R319: only RESET clears HALTED; no command but STEP sets it. Derived: decision D3
(notes/assumptions/8.md). -/
def Obligations.OnlyResetLeavesTheHaltedState : Prop :=
  ∀ (c : Command) (s t : State), c.effect s = .next t →
    (s.halted = true → c ≠ .reset → t.halted = true ∧ t.err = s.err) ∧
    (s.halted = false → t.halted = true → c = .step)

/-- R109: where pc goes, by case, for every instruction that raises no fatal error, and for every word
that selects no executor; p is the pc before. Derived: decisions D6 and D14. -/
def Obligations.PcGoesWhereTheTableSays : Prop :=
  (∀ (i : Instr) (s t : State), s.halted = false → exec i s = .next t → t.halted = false →
    match i with
    | .jp nnn | .call nnn => t.pc.toNat = nnn.toNat
    | .jpV0 nnn => t.pc.toNat = nnn.toNat + (s.reg 0).toNat
    | .ret => ∃ h : 0 < s.sp.val, t.pc = s.stack[s.sp.val - 1]'(by omega)
    | .se x nn => t.pc = if s.reg x = nn then s.pc + 4 else s.pc + 2
    | .sne x nn => t.pc = if s.reg x = nn then s.pc + 2 else s.pc + 4
    | .seR x y => t.pc = if s.reg x = s.reg y then s.pc + 4 else s.pc + 2
    | .sneR x y => t.pc = if s.reg x = s.reg y then s.pc + 2 else s.pc + 4
    | .skp x => t.pc = if s.keyPressed (s.reg x) then s.pc + 4 else s.pc + 2
    | .sknp x => t.pc = if s.keyPressed (s.reg x) then s.pc + 2 else s.pc + 4
    | .ldVxK _ => t.pc = if s.keys = 0 then s.pc else s.pc + 2
    | .cls | .ldI8 _ _ | .addI8 _ _ | .ldR _ _ | .orR _ _ | .andR _ _ | .xorR _ _ | .addR _ _
    | .sub _ _ | .shr _ _ | .subn _ _ | .shl _ _ | .shlE _ _ | .ldIdx _ | .rnd _ _ | .drw _ _ _
    | .ldVxDt _ | .ldDtVx _ | .ldStVx _ | .addI _ | .ldF _ | .ldB _ | .ldStore _ | .ldLoad _ =>
      t.pc = s.pc + 2) ∧
  ∀ (s t : State) (op : Word), s.halted = false → s.fetch = some op →
    UnrecognizedWord s.cfg op.toNat → step s = .next t → t.pc = s.pc + 2

/-- R290 (marked there as derived): a program never sees ST: two runs that start with different sound
timers stay the same but for the sound timer, and each step returns the same. Derived, as R290 itself;
the timer codes are general knowledge (G4, notes/assumptions/6.md). -/
def Obligations.NoProgramSeesTheSoundTimer : Prop :=
  (∀ (k : Nat) (s t : State) (b : Byte), Host.Core.run Sys2Proof.core k s = .next t →
    ∃ c, Host.Core.run Sys2Proof.core k (s.setSt b) = .next (t.setSt c)) ∧
  ∀ (s : State) (b : Byte), (s.setSt b).stepResult = s.stepResult

/-- R39: no program sees a stack entry at or above SP: a run that starts with other values there stays
the same but for entries at or above SP. Derived: R38 and R39 with decision D14
(notes/assumptions/13.md). -/
def Obligations.NoProgramSeesDeadStackEntries : Prop :=
  ∀ (k : Nat) (s t : State) (a : Vector Word 16),
    (∀ (j : Nat) (h : j < 16), j < s.sp.val → a[j] = s.stack[j]) →
    Host.Core.run Sys2Proof.core k s = .next t →
    ∃ b : Vector Word 16, Host.Core.run Sys2Proof.core k { s with stack := a } = .next { t with stack := b } ∧
      ∀ (j : Nat) (h : j < 16), j < t.sp.val → b[j] = t.stack[j]

/-! ## Host commands -/

/-- R345, R346: LOAD copies to 0x200 and changes nothing else, or is too large and changes nothing. -/
def Obligations.LoadCopiesOrRefuses : Prop :=
  ∀ (s : State) (bs : List Byte),
    (3584 < bs.length → Command.effect (.load bs) s = .next s ∧
      Command.result (.load bs) s = .loadTooLarge) ∧
    (bs.length ≤ 3584 → Command.result (.load bs) s = .ok ∧
      ∃ t, Command.effect (.load bs) s = .next t ∧ t = s.setMem t.mem ∧
        ∀ a, t.readByte a = s.byteAfterStore 0x200 bs a)

/-- R50, R322: KEY_DOWN and KEY_UP add and remove one code and change nothing else, while HALTED too; a
code above 0xF changes nothing. Derived: BAD_KEY is decision D22 (notes/assumptions/20.md). -/
def Obligations.KeyCommandsSetOneKey : Prop :=
  ∀ (s : State) (k : Nat),
    (0xF < k → Command.effect (.keyDown k) s = .next s ∧ Command.result (.keyDown k) s = .badKey ∧
      Command.effect (.keyUp k) s = .next s ∧ Command.result (.keyUp k) s = .badKey) ∧
    (k ≤ 0xF →
      (Command.result (.keyDown k) s = .ok ∧ ∃ t, Command.effect (.keyDown k) s = .next t ∧
        t = s.setKeys t.keys ∧ ∀ j, j < 16 → t.keys.getLsbD j = (decide (j = k) || s.keys.getLsbD j)) ∧
      Command.result (.keyUp k) s = .ok ∧ ∃ t, Command.effect (.keyUp k) s = .next t ∧
        t = s.setKeys t.keys ∧ ∀ j, j < 16 → t.keys.getLsbD j = (!decide (j = k) && s.keys.getLsbD j))

/-- R342: a step before any LOAD fetches the word 0 at 0x200, which is unrecognized. Derived, as R342
itself, from decision D6 (notes/assumptions/10.md, 16.md). -/
def Obligations.StepBeforeLoadIsUnrecognized : Prop :=
  ∀ (cfg : Config) (n k : Nat),
    (State.resetWith cfg n k).fetch = some 0 ∧ (State.resetWith cfg n k).stepResult = .unrecognized ∧
    step (State.resetWith cfg n k) = .next { State.resetWith cfg n k with pc := 0x202 }
end

