-- ==== Sys2Proof/Laws/Decode.lean ====
section
/-! SUPPORT. The fields of a packed word, and the two bytes of a word (rule R101, rule R78). -/

namespace Sys2Proof

/-! ## Fields as numbers -/

theorem fieldC_toNat (op : Word) : (fieldC op).toNat = op.toNat / 4096 := by
  have := op.isLt
  simp only [fieldC, BitVec.extractLsb'_toNat, Nat.shiftRight_eq_div_pow]
  omega

theorem fieldX_val (op : Word) : (fieldX op).val = op.toNat / 256 % 16 := by
  have : (fieldX op).val = op.toNat >>> 8 % 2 ^ 4 := rfl
  rw [this, Nat.shiftRight_eq_div_pow]
  norm_num

theorem fieldY_val (op : Word) : (fieldY op).val = op.toNat / 16 % 16 := by
  have : (fieldY op).val = op.toNat >>> 4 % 2 ^ 4 := rfl
  rw [this, Nat.shiftRight_eq_div_pow]
  norm_num

theorem fieldN_val (op : Word) : (fieldN op).val = op.toNat % 16 := by
  have : (fieldN op).val = op.toNat >>> 0 % 2 ^ 4 := rfl
  simpa using this

theorem fieldNN_toNat (op : Word) : (fieldNN op).toNat = op.toNat % 256 := by
  simp [fieldNN]

theorem fieldNNN_toNat (op : Word) : (fieldNNN op).toNat = op.toNat % 4096 := by
  simp [fieldNNN]

/-! ## Packed words as numbers -/

theorem toNat_append (m n : Nat) (a : BitVec m) (b : BitVec n) :
    (a ++ b).toNat = a.toNat * 2 ^ n + b.toNat := by
  rw [BitVec.toNat_append, ← Nat.shiftLeft_add_eq_or_of_lt b.isLt, Nat.shiftLeft_eq]

theorem packNNN_toNat (c : BitVec 4) (nnn : Addr) :
    (packNNN c nnn).toNat = c.toNat * 4096 + nnn.toNat := toNat_append 4 12 c nnn

theorem packXNN_toNat (c : BitVec 4) (x : RegIdx) (nn : Byte) :
    (packXNN c x nn).toNat = c.toNat * 4096 + x.val * 256 + nn.toNat := by
  have h : (packXNN c x nn).toNat = (c ++ (BitVec.ofFin x : BitVec 4)).toNat * 2 ^ 8 + nn.toNat :=
    toNat_append 8 8 _ nn
  have h1 : (c ++ (BitVec.ofFin x : BitVec 4)).toNat = c.toNat * 2 ^ 4 + x.val := toNat_append 4 4 c _
  rw [h, h1]
  norm_num
  ring

theorem packXYN_toNat (c : BitVec 4) (x y n : Fin 16) :
    (packXYN c x y n).toNat = c.toNat * 4096 + x.val * 256 + y.val * 16 + n.val := by
  have h : (packXYN c x y n).toNat =
      (c ++ (BitVec.ofFin x : BitVec 4) ++ (BitVec.ofFin y : BitVec 4)).toNat * 2 ^ 4 + n.val :=
    toNat_append 12 4 _ _
  have h2 : (c ++ (BitVec.ofFin x : BitVec 4) ++ (BitVec.ofFin y : BitVec 4)).toNat =
      (c ++ (BitVec.ofFin x : BitVec 4)).toNat * 2 ^ 4 + y.val := toNat_append 8 4 _ _
  have h1 : (c ++ (BitVec.ofFin x : BitVec 4)).toNat = c.toNat * 2 ^ 4 + x.val := toNat_append 4 4 c _
  rw [h, h2, h1]
  norm_num
  ring

theorem wordOfBytes_toNat (hi lo : Byte) : (wordOfBytes hi lo).toNat = hi.toNat * 256 + lo.toNat :=
  toNat_append 8 8 hi lo

/-! ## The fields of a packed word -/

@[simp] theorem fieldC_packNNN (c : BitVec 4) (nnn : Addr) : fieldC (packNNN c nnn) = c := by
  apply BitVec.eq_of_toNat_eq
  rw [fieldC_toNat, packNNN_toNat]
  omega

@[simp] theorem fieldNNN_packNNN (c : BitVec 4) (nnn : Addr) : fieldNNN (packNNN c nnn) = nnn := by
  apply BitVec.eq_of_toNat_eq
  rw [fieldNNN_toNat, packNNN_toNat]
  omega

@[simp] theorem fieldC_packXNN (c : BitVec 4) (x : RegIdx) (nn : Byte) :
    fieldC (packXNN c x nn) = c := by
  apply BitVec.eq_of_toNat_eq
  rw [fieldC_toNat, packXNN_toNat]
  omega

@[simp] theorem fieldX_packXNN (c : BitVec 4) (x : RegIdx) (nn : Byte) :
    fieldX (packXNN c x nn) = x := by
  apply Fin.ext
  rw [fieldX_val, packXNN_toNat]
  omega

@[simp] theorem fieldNN_packXNN (c : BitVec 4) (x : RegIdx) (nn : Byte) :
    fieldNN (packXNN c x nn) = nn := by
  apply BitVec.eq_of_toNat_eq
  rw [fieldNN_toNat, packXNN_toNat]
  omega

@[simp] theorem fieldC_packXYN (c : BitVec 4) (x y n : Fin 16) : fieldC (packXYN c x y n) = c := by
  apply BitVec.eq_of_toNat_eq
  rw [fieldC_toNat, packXYN_toNat]
  omega

@[simp] theorem fieldX_packXYN (c : BitVec 4) (x y n : Fin 16) : fieldX (packXYN c x y n) = x := by
  apply Fin.ext
  rw [fieldX_val, packXYN_toNat]
  omega

@[simp] theorem fieldY_packXYN (c : BitVec 4) (x y n : Fin 16) : fieldY (packXYN c x y n) = y := by
  apply Fin.ext
  rw [fieldY_val, packXYN_toNat]
  omega

@[simp] theorem fieldN_packXYN (c : BitVec 4) (x y n : Fin 16) : fieldN (packXYN c x y n) = n := by
  apply Fin.ext
  rw [fieldN_val, packXYN_toNat]
  omega

/-- The two bytes of a word, put together again. -/
theorem wordOfBytes_bytesOfWord (w : Word) :
    wordOfBytes (w.extractLsb' 8 8) (w.extractLsb' 0 8) = w := by
  apply BitVec.eq_of_toNat_eq
  have := w.isLt
  rw [wordOfBytes_toNat]
  simp only [BitVec.extractLsb'_toNat, Nat.shiftRight_eq_div_pow]
  omega

end Sys2Proof
end

