-- ==== Sys2Proof/Laws/State.lean ====
section
/-! SUPPORT. One lemma per field of State and per update of Machine/Ops.lean, each true by rfl, so that
no later proof unfolds an update. -/

namespace Sys2Proof.Machine

variable (s : State)

/-! ## setReg -/

@[simp] theorem State.setReg_v (x : RegIdx) (b : Byte) : (s.setReg x b).v = s.v.set x.val b := rfl
@[simp] theorem State.setReg_i (x : RegIdx) (b : Byte) : (s.setReg x b).i = s.i := rfl
@[simp] theorem State.setReg_pc (x : RegIdx) (b : Byte) : (s.setReg x b).pc = s.pc := rfl
@[simp] theorem State.setReg_stack (x : RegIdx) (b : Byte) : (s.setReg x b).stack = s.stack := rfl
@[simp] theorem State.setReg_sp (x : RegIdx) (b : Byte) : (s.setReg x b).sp = s.sp := rfl
@[simp] theorem State.setReg_dt (x : RegIdx) (b : Byte) : (s.setReg x b).dt = s.dt := rfl
@[simp] theorem State.setReg_st (x : RegIdx) (b : Byte) : (s.setReg x b).st = s.st := rfl
@[simp] theorem State.setReg_mem (x : RegIdx) (b : Byte) : (s.setReg x b).mem = s.mem := rfl
@[simp] theorem State.setReg_fb (x : RegIdx) (b : Byte) : (s.setReg x b).fb = s.fb := rfl
@[simp] theorem State.setReg_keys (x : RegIdx) (b : Byte) : (s.setReg x b).keys = s.keys := rfl
@[simp] theorem State.setReg_halted (x : RegIdx) (b : Byte) : (s.setReg x b).halted = s.halted := rfl
@[simp] theorem State.setReg_err (x : RegIdx) (b : Byte) : (s.setReg x b).err = s.err := rfl
@[simp] theorem State.setReg_cfg (x : RegIdx) (b : Byte) : (s.setReg x b).cfg = s.cfg := rfl
@[simp] theorem State.setReg_rndDraws (x : RegIdx) (b : Byte) : (s.setReg x b).rndDraws = s.rndDraws := rfl
@[simp] theorem State.setReg_keyPicks (x : RegIdx) (b : Byte) : (s.setReg x b).keyPicks = s.keyPicks := rfl
@[simp] theorem State.setReg_readByte (x : RegIdx) (b : Byte) (n : Nat) : (s.setReg x b).readByte n = s.readByte n := rfl

/-! ## setI -/

@[simp] theorem State.setI_v (w : Word) : (s.setI w).v = s.v := rfl
@[simp] theorem State.setI_i (w : Word) : (s.setI w).i = w := rfl
@[simp] theorem State.setI_pc (w : Word) : (s.setI w).pc = s.pc := rfl
@[simp] theorem State.setI_stack (w : Word) : (s.setI w).stack = s.stack := rfl
@[simp] theorem State.setI_sp (w : Word) : (s.setI w).sp = s.sp := rfl
@[simp] theorem State.setI_dt (w : Word) : (s.setI w).dt = s.dt := rfl
@[simp] theorem State.setI_st (w : Word) : (s.setI w).st = s.st := rfl
@[simp] theorem State.setI_mem (w : Word) : (s.setI w).mem = s.mem := rfl
@[simp] theorem State.setI_fb (w : Word) : (s.setI w).fb = s.fb := rfl
@[simp] theorem State.setI_keys (w : Word) : (s.setI w).keys = s.keys := rfl
@[simp] theorem State.setI_halted (w : Word) : (s.setI w).halted = s.halted := rfl
@[simp] theorem State.setI_err (w : Word) : (s.setI w).err = s.err := rfl
@[simp] theorem State.setI_cfg (w : Word) : (s.setI w).cfg = s.cfg := rfl
@[simp] theorem State.setI_rndDraws (w : Word) : (s.setI w).rndDraws = s.rndDraws := rfl
@[simp] theorem State.setI_keyPicks (w : Word) : (s.setI w).keyPicks = s.keyPicks := rfl
@[simp] theorem State.setI_reg (w : Word) (r : RegIdx) : (s.setI w).reg r = s.reg r := rfl
@[simp] theorem State.setI_readByte (w : Word) (n : Nat) : (s.setI w).readByte n = s.readByte n := rfl

/-! ## setPc -/

@[simp] theorem State.setPc_v (w : Word) : (s.setPc w).v = s.v := rfl
@[simp] theorem State.setPc_i (w : Word) : (s.setPc w).i = s.i := rfl
@[simp] theorem State.setPc_pc (w : Word) : (s.setPc w).pc = w := rfl
@[simp] theorem State.setPc_stack (w : Word) : (s.setPc w).stack = s.stack := rfl
@[simp] theorem State.setPc_sp (w : Word) : (s.setPc w).sp = s.sp := rfl
@[simp] theorem State.setPc_dt (w : Word) : (s.setPc w).dt = s.dt := rfl
@[simp] theorem State.setPc_st (w : Word) : (s.setPc w).st = s.st := rfl
@[simp] theorem State.setPc_mem (w : Word) : (s.setPc w).mem = s.mem := rfl
@[simp] theorem State.setPc_fb (w : Word) : (s.setPc w).fb = s.fb := rfl
@[simp] theorem State.setPc_keys (w : Word) : (s.setPc w).keys = s.keys := rfl
@[simp] theorem State.setPc_halted (w : Word) : (s.setPc w).halted = s.halted := rfl
@[simp] theorem State.setPc_err (w : Word) : (s.setPc w).err = s.err := rfl
@[simp] theorem State.setPc_cfg (w : Word) : (s.setPc w).cfg = s.cfg := rfl
@[simp] theorem State.setPc_rndDraws (w : Word) : (s.setPc w).rndDraws = s.rndDraws := rfl
@[simp] theorem State.setPc_keyPicks (w : Word) : (s.setPc w).keyPicks = s.keyPicks := rfl
@[simp] theorem State.setPc_reg (w : Word) (r : RegIdx) : (s.setPc w).reg r = s.reg r := rfl
@[simp] theorem State.setPc_readByte (w : Word) (n : Nat) : (s.setPc w).readByte n = s.readByte n := rfl

/-! ## setDt -/

@[simp] theorem State.setDt_v (b : Byte) : (s.setDt b).v = s.v := rfl
@[simp] theorem State.setDt_i (b : Byte) : (s.setDt b).i = s.i := rfl
@[simp] theorem State.setDt_pc (b : Byte) : (s.setDt b).pc = s.pc := rfl
@[simp] theorem State.setDt_stack (b : Byte) : (s.setDt b).stack = s.stack := rfl
@[simp] theorem State.setDt_sp (b : Byte) : (s.setDt b).sp = s.sp := rfl
@[simp] theorem State.setDt_dt (b : Byte) : (s.setDt b).dt = b := rfl
@[simp] theorem State.setDt_st (b : Byte) : (s.setDt b).st = s.st := rfl
@[simp] theorem State.setDt_mem (b : Byte) : (s.setDt b).mem = s.mem := rfl
@[simp] theorem State.setDt_fb (b : Byte) : (s.setDt b).fb = s.fb := rfl
@[simp] theorem State.setDt_keys (b : Byte) : (s.setDt b).keys = s.keys := rfl
@[simp] theorem State.setDt_halted (b : Byte) : (s.setDt b).halted = s.halted := rfl
@[simp] theorem State.setDt_err (b : Byte) : (s.setDt b).err = s.err := rfl
@[simp] theorem State.setDt_cfg (b : Byte) : (s.setDt b).cfg = s.cfg := rfl
@[simp] theorem State.setDt_rndDraws (b : Byte) : (s.setDt b).rndDraws = s.rndDraws := rfl
@[simp] theorem State.setDt_keyPicks (b : Byte) : (s.setDt b).keyPicks = s.keyPicks := rfl
@[simp] theorem State.setDt_reg (b : Byte) (r : RegIdx) : (s.setDt b).reg r = s.reg r := rfl
@[simp] theorem State.setDt_readByte (b : Byte) (n : Nat) : (s.setDt b).readByte n = s.readByte n := rfl

/-! ## setSt -/

@[simp] theorem State.setSt_v (b : Byte) : (s.setSt b).v = s.v := rfl
@[simp] theorem State.setSt_i (b : Byte) : (s.setSt b).i = s.i := rfl
@[simp] theorem State.setSt_pc (b : Byte) : (s.setSt b).pc = s.pc := rfl
@[simp] theorem State.setSt_stack (b : Byte) : (s.setSt b).stack = s.stack := rfl
@[simp] theorem State.setSt_sp (b : Byte) : (s.setSt b).sp = s.sp := rfl
@[simp] theorem State.setSt_dt (b : Byte) : (s.setSt b).dt = s.dt := rfl
@[simp] theorem State.setSt_st (b : Byte) : (s.setSt b).st = b := rfl
@[simp] theorem State.setSt_mem (b : Byte) : (s.setSt b).mem = s.mem := rfl
@[simp] theorem State.setSt_fb (b : Byte) : (s.setSt b).fb = s.fb := rfl
@[simp] theorem State.setSt_keys (b : Byte) : (s.setSt b).keys = s.keys := rfl
@[simp] theorem State.setSt_halted (b : Byte) : (s.setSt b).halted = s.halted := rfl
@[simp] theorem State.setSt_err (b : Byte) : (s.setSt b).err = s.err := rfl
@[simp] theorem State.setSt_cfg (b : Byte) : (s.setSt b).cfg = s.cfg := rfl
@[simp] theorem State.setSt_rndDraws (b : Byte) : (s.setSt b).rndDraws = s.rndDraws := rfl
@[simp] theorem State.setSt_keyPicks (b : Byte) : (s.setSt b).keyPicks = s.keyPicks := rfl
@[simp] theorem State.setSt_reg (b : Byte) (r : RegIdx) : (s.setSt b).reg r = s.reg r := rfl
@[simp] theorem State.setSt_readByte (b : Byte) (n : Nat) : (s.setSt b).readByte n = s.readByte n := rfl

/-! ## setMem -/

@[simp] theorem State.setMem_v (m : Memory) : (s.setMem m).v = s.v := rfl
@[simp] theorem State.setMem_i (m : Memory) : (s.setMem m).i = s.i := rfl
@[simp] theorem State.setMem_pc (m : Memory) : (s.setMem m).pc = s.pc := rfl
@[simp] theorem State.setMem_stack (m : Memory) : (s.setMem m).stack = s.stack := rfl
@[simp] theorem State.setMem_sp (m : Memory) : (s.setMem m).sp = s.sp := rfl
@[simp] theorem State.setMem_dt (m : Memory) : (s.setMem m).dt = s.dt := rfl
@[simp] theorem State.setMem_st (m : Memory) : (s.setMem m).st = s.st := rfl
@[simp] theorem State.setMem_mem (m : Memory) : (s.setMem m).mem = m := rfl
@[simp] theorem State.setMem_fb (m : Memory) : (s.setMem m).fb = s.fb := rfl
@[simp] theorem State.setMem_keys (m : Memory) : (s.setMem m).keys = s.keys := rfl
@[simp] theorem State.setMem_halted (m : Memory) : (s.setMem m).halted = s.halted := rfl
@[simp] theorem State.setMem_err (m : Memory) : (s.setMem m).err = s.err := rfl
@[simp] theorem State.setMem_cfg (m : Memory) : (s.setMem m).cfg = s.cfg := rfl
@[simp] theorem State.setMem_rndDraws (m : Memory) : (s.setMem m).rndDraws = s.rndDraws := rfl
@[simp] theorem State.setMem_keyPicks (m : Memory) : (s.setMem m).keyPicks = s.keyPicks := rfl
@[simp] theorem State.setMem_reg (m : Memory) (r : RegIdx) : (s.setMem m).reg r = s.reg r := rfl

/-! ## setFb -/

@[simp] theorem State.setFb_v (fb : Framebuffer) : (s.setFb fb).v = s.v := rfl
@[simp] theorem State.setFb_i (fb : Framebuffer) : (s.setFb fb).i = s.i := rfl
@[simp] theorem State.setFb_pc (fb : Framebuffer) : (s.setFb fb).pc = s.pc := rfl
@[simp] theorem State.setFb_stack (fb : Framebuffer) : (s.setFb fb).stack = s.stack := rfl
@[simp] theorem State.setFb_sp (fb : Framebuffer) : (s.setFb fb).sp = s.sp := rfl
@[simp] theorem State.setFb_dt (fb : Framebuffer) : (s.setFb fb).dt = s.dt := rfl
@[simp] theorem State.setFb_st (fb : Framebuffer) : (s.setFb fb).st = s.st := rfl
@[simp] theorem State.setFb_mem (fb : Framebuffer) : (s.setFb fb).mem = s.mem := rfl
@[simp] theorem State.setFb_fb (fb : Framebuffer) : (s.setFb fb).fb = fb := rfl
@[simp] theorem State.setFb_keys (fb : Framebuffer) : (s.setFb fb).keys = s.keys := rfl
@[simp] theorem State.setFb_halted (fb : Framebuffer) : (s.setFb fb).halted = s.halted := rfl
@[simp] theorem State.setFb_err (fb : Framebuffer) : (s.setFb fb).err = s.err := rfl
@[simp] theorem State.setFb_cfg (fb : Framebuffer) : (s.setFb fb).cfg = s.cfg := rfl
@[simp] theorem State.setFb_rndDraws (fb : Framebuffer) : (s.setFb fb).rndDraws = s.rndDraws := rfl
@[simp] theorem State.setFb_keyPicks (fb : Framebuffer) : (s.setFb fb).keyPicks = s.keyPicks := rfl
@[simp] theorem State.setFb_reg (fb : Framebuffer) (r : RegIdx) : (s.setFb fb).reg r = s.reg r := rfl
@[simp] theorem State.setFb_readByte (fb : Framebuffer) (n : Nat) : (s.setFb fb).readByte n = s.readByte n := rfl

/-! ## setKeys -/

@[simp] theorem State.setKeys_v (ks : BitVec 16) : (s.setKeys ks).v = s.v := rfl
@[simp] theorem State.setKeys_i (ks : BitVec 16) : (s.setKeys ks).i = s.i := rfl
@[simp] theorem State.setKeys_pc (ks : BitVec 16) : (s.setKeys ks).pc = s.pc := rfl
@[simp] theorem State.setKeys_stack (ks : BitVec 16) : (s.setKeys ks).stack = s.stack := rfl
@[simp] theorem State.setKeys_sp (ks : BitVec 16) : (s.setKeys ks).sp = s.sp := rfl
@[simp] theorem State.setKeys_dt (ks : BitVec 16) : (s.setKeys ks).dt = s.dt := rfl
@[simp] theorem State.setKeys_st (ks : BitVec 16) : (s.setKeys ks).st = s.st := rfl
@[simp] theorem State.setKeys_mem (ks : BitVec 16) : (s.setKeys ks).mem = s.mem := rfl
@[simp] theorem State.setKeys_fb (ks : BitVec 16) : (s.setKeys ks).fb = s.fb := rfl
@[simp] theorem State.setKeys_keys (ks : BitVec 16) : (s.setKeys ks).keys = ks := rfl
@[simp] theorem State.setKeys_halted (ks : BitVec 16) : (s.setKeys ks).halted = s.halted := rfl
@[simp] theorem State.setKeys_err (ks : BitVec 16) : (s.setKeys ks).err = s.err := rfl
@[simp] theorem State.setKeys_cfg (ks : BitVec 16) : (s.setKeys ks).cfg = s.cfg := rfl
@[simp] theorem State.setKeys_rndDraws (ks : BitVec 16) : (s.setKeys ks).rndDraws = s.rndDraws := rfl
@[simp] theorem State.setKeys_keyPicks (ks : BitVec 16) : (s.setKeys ks).keyPicks = s.keyPicks := rfl
@[simp] theorem State.setKeys_reg (ks : BitVec 16) (r : RegIdx) : (s.setKeys ks).reg r = s.reg r := rfl
@[simp] theorem State.setKeys_readByte (ks : BitVec 16) (n : Nat) : (s.setKeys ks).readByte n = s.readByte n := rfl

/-! ## setStack -/

@[simp] theorem State.setStack_v (a : Vector Word 16) (n : Fin 17) : (s.setStack a n).v = s.v := rfl
@[simp] theorem State.setStack_i (a : Vector Word 16) (n : Fin 17) : (s.setStack a n).i = s.i := rfl
@[simp] theorem State.setStack_pc (a : Vector Word 16) (n : Fin 17) : (s.setStack a n).pc = s.pc := rfl
@[simp] theorem State.setStack_stack (a : Vector Word 16) (n : Fin 17) : (s.setStack a n).stack = a := rfl
@[simp] theorem State.setStack_sp (a : Vector Word 16) (n : Fin 17) : (s.setStack a n).sp = n := rfl
@[simp] theorem State.setStack_dt (a : Vector Word 16) (n : Fin 17) : (s.setStack a n).dt = s.dt := rfl
@[simp] theorem State.setStack_st (a : Vector Word 16) (n : Fin 17) : (s.setStack a n).st = s.st := rfl
@[simp] theorem State.setStack_mem (a : Vector Word 16) (n : Fin 17) : (s.setStack a n).mem = s.mem := rfl
@[simp] theorem State.setStack_fb (a : Vector Word 16) (n : Fin 17) : (s.setStack a n).fb = s.fb := rfl
@[simp] theorem State.setStack_keys (a : Vector Word 16) (n : Fin 17) : (s.setStack a n).keys = s.keys := rfl
@[simp] theorem State.setStack_halted (a : Vector Word 16) (n : Fin 17) : (s.setStack a n).halted = s.halted := rfl
@[simp] theorem State.setStack_err (a : Vector Word 16) (n : Fin 17) : (s.setStack a n).err = s.err := rfl
@[simp] theorem State.setStack_cfg (a : Vector Word 16) (n : Fin 17) : (s.setStack a n).cfg = s.cfg := rfl
@[simp] theorem State.setStack_rndDraws (a : Vector Word 16) (n : Fin 17) : (s.setStack a n).rndDraws = s.rndDraws := rfl
@[simp] theorem State.setStack_keyPicks (a : Vector Word 16) (n : Fin 17) : (s.setStack a n).keyPicks = s.keyPicks := rfl
@[simp] theorem State.setStack_reg (a : Vector Word 16) (n : Fin 17) (r : RegIdx) : (s.setStack a n).reg r = s.reg r := rfl
@[simp] theorem State.setStack_readByte (a : Vector Word 16) (n : Fin 17) (k : Nat) : (s.setStack a n).readByte k = s.readByte k := rfl

/-! ## countDraw -/

@[simp] theorem State.countDraw_v : s.countDraw.v = s.v := rfl
@[simp] theorem State.countDraw_i : s.countDraw.i = s.i := rfl
@[simp] theorem State.countDraw_pc : s.countDraw.pc = s.pc := rfl
@[simp] theorem State.countDraw_stack : s.countDraw.stack = s.stack := rfl
@[simp] theorem State.countDraw_sp : s.countDraw.sp = s.sp := rfl
@[simp] theorem State.countDraw_dt : s.countDraw.dt = s.dt := rfl
@[simp] theorem State.countDraw_st : s.countDraw.st = s.st := rfl
@[simp] theorem State.countDraw_mem : s.countDraw.mem = s.mem := rfl
@[simp] theorem State.countDraw_fb : s.countDraw.fb = s.fb := rfl
@[simp] theorem State.countDraw_keys : s.countDraw.keys = s.keys := rfl
@[simp] theorem State.countDraw_halted : s.countDraw.halted = s.halted := rfl
@[simp] theorem State.countDraw_err : s.countDraw.err = s.err := rfl
@[simp] theorem State.countDraw_cfg : s.countDraw.cfg = s.cfg := rfl
@[simp] theorem State.countDraw_rndDraws : s.countDraw.rndDraws = s.rndDraws + 1 := rfl
@[simp] theorem State.countDraw_keyPicks : s.countDraw.keyPicks = s.keyPicks := rfl
@[simp] theorem State.countDraw_reg (r : RegIdx) : s.countDraw.reg r = s.reg r := rfl
@[simp] theorem State.countDraw_readByte (n : Nat) : s.countDraw.readByte n = s.readByte n := rfl

/-! ## countPick -/

@[simp] theorem State.countPick_v : s.countPick.v = s.v := rfl
@[simp] theorem State.countPick_i : s.countPick.i = s.i := rfl
@[simp] theorem State.countPick_pc : s.countPick.pc = s.pc := rfl
@[simp] theorem State.countPick_stack : s.countPick.stack = s.stack := rfl
@[simp] theorem State.countPick_sp : s.countPick.sp = s.sp := rfl
@[simp] theorem State.countPick_dt : s.countPick.dt = s.dt := rfl
@[simp] theorem State.countPick_st : s.countPick.st = s.st := rfl
@[simp] theorem State.countPick_mem : s.countPick.mem = s.mem := rfl
@[simp] theorem State.countPick_fb : s.countPick.fb = s.fb := rfl
@[simp] theorem State.countPick_keys : s.countPick.keys = s.keys := rfl
@[simp] theorem State.countPick_halted : s.countPick.halted = s.halted := rfl
@[simp] theorem State.countPick_err : s.countPick.err = s.err := rfl
@[simp] theorem State.countPick_cfg : s.countPick.cfg = s.cfg := rfl
@[simp] theorem State.countPick_rndDraws : s.countPick.rndDraws = s.rndDraws := rfl
@[simp] theorem State.countPick_keyPicks : s.countPick.keyPicks = s.keyPicks + 1 := rfl
@[simp] theorem State.countPick_reg (r : RegIdx) : s.countPick.reg r = s.reg r := rfl
@[simp] theorem State.countPick_readByte (n : Nat) : s.countPick.readByte n = s.readByte n := rfl

/-! ## halt -/

@[simp] theorem State.halt_v (e : ErrCode) : (s.halt e).v = s.v := rfl
@[simp] theorem State.halt_i (e : ErrCode) : (s.halt e).i = s.i := rfl
@[simp] theorem State.halt_pc (e : ErrCode) : (s.halt e).pc = s.pc := rfl
@[simp] theorem State.halt_stack (e : ErrCode) : (s.halt e).stack = s.stack := rfl
@[simp] theorem State.halt_sp (e : ErrCode) : (s.halt e).sp = s.sp := rfl
@[simp] theorem State.halt_dt (e : ErrCode) : (s.halt e).dt = s.dt := rfl
@[simp] theorem State.halt_st (e : ErrCode) : (s.halt e).st = s.st := rfl
@[simp] theorem State.halt_mem (e : ErrCode) : (s.halt e).mem = s.mem := rfl
@[simp] theorem State.halt_fb (e : ErrCode) : (s.halt e).fb = s.fb := rfl
@[simp] theorem State.halt_keys (e : ErrCode) : (s.halt e).keys = s.keys := rfl
@[simp] theorem State.halt_halted (e : ErrCode) : (s.halt e).halted = true := rfl
@[simp] theorem State.halt_err (e : ErrCode) : (s.halt e).err = e := rfl
@[simp] theorem State.halt_cfg (e : ErrCode) : (s.halt e).cfg = s.cfg := rfl
@[simp] theorem State.halt_rndDraws (e : ErrCode) : (s.halt e).rndDraws = s.rndDraws := rfl
@[simp] theorem State.halt_keyPicks (e : ErrCode) : (s.halt e).keyPicks = s.keyPicks := rfl
@[simp] theorem State.halt_reg (e : ErrCode) (r : RegIdx) : (s.halt e).reg r = s.reg r := rfl
@[simp] theorem State.halt_readByte (e : ErrCode) (n : Nat) : (s.halt e).readByte n = s.readByte n := rfl

/-! ## advance -/

@[simp] theorem State.advance_v : s.advance.v = s.v := rfl
@[simp] theorem State.advance_i : s.advance.i = s.i := rfl
@[simp] theorem State.advance_pc : s.advance.pc = s.pc + 2 := rfl
@[simp] theorem State.advance_stack : s.advance.stack = s.stack := rfl
@[simp] theorem State.advance_sp : s.advance.sp = s.sp := rfl
@[simp] theorem State.advance_dt : s.advance.dt = s.dt := rfl
@[simp] theorem State.advance_st : s.advance.st = s.st := rfl
@[simp] theorem State.advance_mem : s.advance.mem = s.mem := rfl
@[simp] theorem State.advance_fb : s.advance.fb = s.fb := rfl
@[simp] theorem State.advance_keys : s.advance.keys = s.keys := rfl
@[simp] theorem State.advance_halted : s.advance.halted = s.halted := rfl
@[simp] theorem State.advance_err : s.advance.err = s.err := rfl
@[simp] theorem State.advance_cfg : s.advance.cfg = s.cfg := rfl
@[simp] theorem State.advance_rndDraws : s.advance.rndDraws = s.rndDraws := rfl
@[simp] theorem State.advance_keyPicks : s.advance.keyPicks = s.keyPicks := rfl
@[simp] theorem State.advance_reg (r : RegIdx) : s.advance.reg r = s.reg r := rfl
@[simp] theorem State.advance_readByte (n : Nat) : s.advance.readByte n = s.readByte n := rfl

/-! ## skipIf -/

@[simp] theorem State.skipIf_v (c : Bool) : (s.skipIf c).v = s.v := rfl
@[simp] theorem State.skipIf_i (c : Bool) : (s.skipIf c).i = s.i := rfl
@[simp] theorem State.skipIf_pc (c : Bool) : (s.skipIf c).pc = s.pc + if c then 4 else 2 := rfl
@[simp] theorem State.skipIf_stack (c : Bool) : (s.skipIf c).stack = s.stack := rfl
@[simp] theorem State.skipIf_sp (c : Bool) : (s.skipIf c).sp = s.sp := rfl
@[simp] theorem State.skipIf_dt (c : Bool) : (s.skipIf c).dt = s.dt := rfl
@[simp] theorem State.skipIf_st (c : Bool) : (s.skipIf c).st = s.st := rfl
@[simp] theorem State.skipIf_mem (c : Bool) : (s.skipIf c).mem = s.mem := rfl
@[simp] theorem State.skipIf_fb (c : Bool) : (s.skipIf c).fb = s.fb := rfl
@[simp] theorem State.skipIf_keys (c : Bool) : (s.skipIf c).keys = s.keys := rfl
@[simp] theorem State.skipIf_halted (c : Bool) : (s.skipIf c).halted = s.halted := rfl
@[simp] theorem State.skipIf_err (c : Bool) : (s.skipIf c).err = s.err := rfl
@[simp] theorem State.skipIf_cfg (c : Bool) : (s.skipIf c).cfg = s.cfg := rfl
@[simp] theorem State.skipIf_rndDraws (c : Bool) : (s.skipIf c).rndDraws = s.rndDraws := rfl
@[simp] theorem State.skipIf_keyPicks (c : Bool) : (s.skipIf c).keyPicks = s.keyPicks := rfl
@[simp] theorem State.skipIf_reg (c : Bool) (r : RegIdx) : (s.skipIf c).reg r = s.reg r := rfl
@[simp] theorem State.skipIf_readByte (c : Bool) (n : Nat) : (s.skipIf c).readByte n = s.readByte n := rfl

/-! ## tick -/

@[simp] theorem State.tick_v : s.tick.v = s.v := rfl
@[simp] theorem State.tick_i : s.tick.i = s.i := rfl
@[simp] theorem State.tick_pc : s.tick.pc = s.pc := rfl
@[simp] theorem State.tick_stack : s.tick.stack = s.stack := rfl
@[simp] theorem State.tick_sp : s.tick.sp = s.sp := rfl
@[simp] theorem State.tick_dt : s.tick.dt = tickTimer s.dt := rfl
@[simp] theorem State.tick_st : s.tick.st = tickTimer s.st := rfl
@[simp] theorem State.tick_mem : s.tick.mem = s.mem := rfl
@[simp] theorem State.tick_fb : s.tick.fb = s.fb := rfl
@[simp] theorem State.tick_keys : s.tick.keys = s.keys := rfl
@[simp] theorem State.tick_halted : s.tick.halted = s.halted := rfl
@[simp] theorem State.tick_err : s.tick.err = s.err := rfl
@[simp] theorem State.tick_cfg : s.tick.cfg = s.cfg := rfl
@[simp] theorem State.tick_rndDraws : s.tick.rndDraws = s.rndDraws := rfl
@[simp] theorem State.tick_keyPicks : s.tick.keyPicks = s.keyPicks := rfl
@[simp] theorem State.tick_reg (r : RegIdx) : s.tick.reg r = s.reg r := rfl
@[simp] theorem State.tick_readByte (n : Nat) : s.tick.readByte n = s.readByte n := rfl

/-! ## The register file -/

/-- A read of a register after a write of one. -/
@[simp] theorem State.reg_setReg (x r : RegIdx) (b : Byte) :
    (s.setReg x b).reg r = if r = x then b else s.reg r := by
  simp only [State.reg, State.setReg, Vector.getElem_set, Fin.ext_iff, eq_comm]

/-- A byte of memory after MEM is replaced. -/
theorem State.readByte_setMem (m : Memory) (a : Nat) :
    (s.setMem m).readByte a = Memory.read s.cfg.font m a := rfl

/-- Two states with the same fields are the same. -/
theorem State.ext_fields {s t : State} (hv : t.v = s.v) (hi : t.i = s.i) (hpc : t.pc = s.pc)
    (hstack : t.stack = s.stack) (hsp : t.sp = s.sp) (hdt : t.dt = s.dt) (hst : t.st = s.st)
    (hmem : t.mem = s.mem) (hfb : t.fb = s.fb) (hkeys : t.keys = s.keys)
    (hhalted : t.halted = s.halted) (herr : t.err = s.err) (hcfg : t.cfg = s.cfg)
    (hrnd : t.rndDraws = s.rndDraws) (hpick : t.keyPicks = s.keyPicks) : t = s := by
  cases s; cases t; simp_all

/-- Two register files that read alike are the same. -/
theorem State.v_ext {s t : State} (h : ∀ r : RegIdx, t.reg r = s.reg r) : t.v = s.v := by
  apply Vector.ext
  intro k hk
  exact h ⟨k, hk⟩

end Sys2Proof.Machine
end

