-- ==== Sys2Proof/Laws/Memory.lean ====
section
/-! SUPPORT. Memory: a read after a write, the canonical form, and what the accesses of rule R76 do. -/

namespace Sys2Proof.Machine

/-! ## The list -/

theorem Memory.lookup_erase (m : Memory) (a b : Nat) :
    Memory.lookup (Memory.erase m a) b = if b = a then none else Memory.lookup m b := by
  induction m with
  | nil => simp [Memory.erase, Memory.lookup]
  | cons c m ih =>
    obtain ⟨k, v⟩ := c
    by_cases hk : k = a <;> by_cases hb : b = a <;> by_cases hkb : k = b <;>
      simp_all [Memory.erase, Memory.lookup]

theorem Memory.lookup_insert (m : Memory) (a b : Nat) (v : Byte) :
    Memory.lookup (Memory.insert m a v) b = if b = a then some v else Memory.lookup m b := by
  induction m with
  | nil => simp [Memory.insert, Memory.lookup, eq_comm]
  | cons c m ih =>
    obtain ⟨k, w⟩ := c
    by_cases h1 : a < k
    · simp [Memory.insert, Memory.lookup, h1, eq_comm]
    · by_cases h2 : a = k
      · subst h2
        by_cases hb : b = a
        · simp [Memory.insert, Memory.lookup, hb]
        · simp [Memory.insert, Memory.lookup, hb, Ne.symm hb]
      · by_cases hkb : k = b
        · subst hkb
          simp [Memory.insert, Memory.lookup, h1, h2, Ne.symm h2]
        · simp [Memory.insert, Memory.lookup, h1, h2, hkb, ih]

/-- A read after a write: the value written at that address, and every other address as before. -/
@[simp] theorem Memory.read_write (font : Vector Byte 80) (m : Memory) (a b : Nat) (v : Byte) :
    Memory.read font (Memory.write font m a v) b = if b = a then v else Memory.read font m b := by
  unfold Memory.write Memory.read
  split
  · rename_i h
    rw [Memory.lookup_erase]
    split <;> simp_all
  · rw [Memory.lookup_insert]
    split <;> simp

/-! ## The canonical form -/

theorem Memory.mem_erase {m : Memory} {a : Nat} {c : Host.Cell} (h : c ∈ Memory.erase m a) :
    c ∈ m ∧ c.1 ≠ a := by
  induction m with
  | nil => simp [Memory.erase] at h
  | cons d m ih =>
    obtain ⟨k, w⟩ := d
    by_cases hk : k = a
    · simp only [Memory.erase, hk, if_true] at h
      exact ⟨List.mem_cons_of_mem _ (ih h).1, (ih h).2⟩
    · simp only [Memory.erase, hk, if_false, List.mem_cons] at h
      rcases h with rfl | h
      · exact ⟨List.mem_cons_self, hk⟩
      · exact ⟨List.mem_cons_of_mem _ (ih h).1, (ih h).2⟩

theorem Memory.mem_insert {m : Memory} {a : Nat} {v : Byte} {c : Host.Cell}
    (h : c ∈ Memory.insert m a v) : c = (a, v) ∨ c ∈ m := by
  induction m with
  | nil => simpa [Memory.insert] using h
  | cons d m ih =>
    obtain ⟨k, w⟩ := d
    simp only [Memory.insert] at h
    split at h
    · simpa using h
    · split at h
      · simp only [List.mem_cons] at h ⊢
        tauto
      · simp only [List.mem_cons] at h ⊢
        rcases h with h | h
        · tauto
        · rcases ih h with h | h <;> tauto

theorem Memory.pairwise_erase {m : Memory} {a : Nat} (h : m.Pairwise (fun p q => p.1 < q.1)) :
    (Memory.erase m a).Pairwise (fun p q => p.1 < q.1) := by
  induction m with
  | nil => simp [Memory.erase]
  | cons d m ih =>
    obtain ⟨k, w⟩ := d
    rw [List.pairwise_cons] at h
    by_cases hk : k = a
    · simpa [Memory.erase, hk] using ih h.2
    · simp only [Memory.erase, hk, if_false, List.pairwise_cons]
      exact ⟨fun c hc => h.1 c (Memory.mem_erase hc).1, ih h.2⟩

theorem Memory.pairwise_insert {m : Memory} {a : Nat} {v : Byte}
    (h : m.Pairwise (fun p q => p.1 < q.1)) :
    (Memory.insert m a v).Pairwise (fun p q => p.1 < q.1) := by
  induction m with
  | nil => simp [Memory.insert]
  | cons d m ih =>
    obtain ⟨k, w⟩ := d
    have h' := List.pairwise_cons.mp h
    simp only [Memory.insert]
    split
    · rename_i hlt
      refine List.pairwise_cons.mpr ⟨?_, h⟩
      intro c hc
      rcases List.mem_cons.mp hc with rfl | hc
      · exact hlt
      · exact lt_trans hlt (h'.1 c hc)
    · split
      · rename_i _ heq
        subst heq
        exact List.pairwise_cons.mpr ⟨fun c hc => h'.1 c hc, h'.2⟩
      · rename_i h1 h2
        refine List.pairwise_cons.mpr ⟨?_, ih h'.2⟩
        intro c hc
        rcases Memory.mem_insert hc with rfl | hc
        · show k < a
          omega
        · exact h'.1 c hc

/-- A write inside 0x000-0xFFF keeps the canonical form. -/
theorem Memory.wf_write {font : Vector Byte 80} {m : Memory} (h : Memory.wf font m) {a : Nat}
    (ha : a < 4096) (v : Byte) : Memory.wf font (Memory.write font m a v) := by
  unfold Memory.write
  split
  · exact ⟨Memory.pairwise_erase h.1, fun c hc => h.2 c (Memory.mem_erase hc).1⟩
  · rename_i hv
    refine ⟨Memory.pairwise_insert h.1, fun c hc => ?_⟩
    rcases Memory.mem_insert hc with rfl | hc
    · exact ⟨ha, hv⟩
    · exact h.2 c hc

/-- Memory that lists nothing, as after RESET, has the canonical form. -/
theorem Memory.wf_nil (font : Vector Byte 80) : Memory.wf font [] := by simp [Memory.wf]

/-! ## Reads (rule R74, rule R76) -/

theorem State.memRead_eq (s : State) (a : Nat) :
    s.memRead a = if a ≤ 0xFFF then some (s.readByte a) else none := by
  unfold State.memRead
  by_cases h : a ≤ 0xFFF
  · rw [if_neg (by omega), if_pos h]
  · rw [if_pos (by omega), if_neg h]

/-- A read of n bytes succeeds exactly when every address is in range, and gives each byte. -/
theorem State.readBytes_eq (s : State) (a n : Nat) :
    s.readBytes a n =
      if n = 0 ∨ a + n ≤ 0x1000 then some ((List.range n).map (fun k => s.readByte (a + k)))
      else none := by
  induction n generalizing a with
  | zero => simp [State.readBytes]
  | succ n ih =>
    simp only [State.readBytes, State.memRead_eq, ih]
    by_cases h : a + (n + 1) ≤ 0x1000
    · have h1 : a ≤ 0xFFF := by omega
      have h2 : n = 0 ∨ a + 1 + n ≤ 0x1000 := by omega
      simp only [h1, h2, if_true, h, or_true, List.range_succ_eq_map, List.map_cons, List.map_map,
        Nat.add_zero, Option.some.injEq, List.cons.injEq, true_and]
      apply List.map_congr_left
      intro k _
      simp only [Function.comp, Nat.succ_eq_add_one]
      congr 1
      omega
    · by_cases h1 : a ≤ 0xFFF
      · have h2 : ¬ (n = 0 ∨ a + 1 + n ≤ 0x1000) := by omega
        simp [h1, h2, h]
      · simp [h1, h]

/-! ## Writes (rule R75, rule R76) -/

/-- Everything a write of bytes can do: if it answers a state, every address was in range, that state
differs only in memory, each byte written reads back and every other byte reads as before. -/
theorem State.writeBytes_some {s t : State} {a : Nat} {bs : List Byte}
    (h : s.writeBytes a bs = some t) :
    (bs = [] ∨ a + bs.length ≤ 0x1000) ∧ t = s.setMem t.mem ∧
      ∀ b, t.readByte b = if h : a ≤ b ∧ b < a + bs.length then bs[b - a]'(by omega) else s.readByte b := by
  induction bs generalizing s a with
  | nil =>
    simp only [State.writeBytes, Option.some.injEq] at h
    subst h
    refine ⟨.inl rfl, rfl, fun b => ?_⟩
    rw [dif_neg (by simp)]
  | cons v bs ih =>
    simp only [State.writeBytes, State.memWrite] at h
    split at h
    · rename_i u hu
      split at hu
      · cases hu
      · rename_i ha
        simp only [Option.some.injEq] at hu
        subst hu
        obtain ⟨h1, h2, h3⟩ := ih h
        refine ⟨.inr ?_, ?_, fun b => ?_⟩
        · rcases h1 with rfl | h1
          · simp; omega
          · simp only [List.length_cons]; omega
        · conv_lhs => rw [h2]
          rfl
        · rw [h3 b]
          by_cases hb : a + 1 ≤ b ∧ b < a + 1 + bs.length
          · have hb' : a ≤ b ∧ b < a + (v :: bs).length := by simp only [List.length_cons]; omega
            rw [dif_pos hb, dif_pos hb']
            have : b - a = (b - (a + 1)) + 1 := by omega
            simp only [this, List.getElem_cons_succ]
          · rw [dif_neg hb, State.readByte_setMem, Memory.read_write]
            by_cases hab : b = a
            · subst hab
              rw [if_pos rfl, dif_pos (by simp)]
              simp
            · rw [if_neg hab, dif_neg (by simp only [List.length_cons]; omega)]
              rfl
    · cases h

/-- A write of bytes succeeds exactly when every address is in range. -/
theorem State.writeBytes_isSome (s : State) (a : Nat) (bs : List Byte) :
    (s.writeBytes a bs).isSome = true ↔ (bs = [] ∨ a + bs.length ≤ 0x1000) := by
  induction bs generalizing s a with
  | nil => simp [State.writeBytes]
  | cons v bs ih =>
    simp only [State.writeBytes, State.memWrite]
    by_cases ha : a > 0xFFF
    · simp [ha]; omega
    · simp only [ha, if_false, ih, List.length_cons]
      constructor
      · rintro (rfl | h)
        · right; simp; omega
        · right; omega
      · rintro (h | h)
        · cases h
        · right; omega

/-- A write of bytes fails exactly when an address is out of range. -/
theorem State.writeBytes_eq_none (s : State) (a : Nat) (bs : List Byte) :
    s.writeBytes a bs = none ↔ bs ≠ [] ∧ 0x1000 < a + bs.length := by
  rw [← Option.not_isSome_iff_eq_none, State.writeBytes_isSome]
  push Not
  rfl

/-- A write of bytes keeps the canonical form. -/
theorem State.writeBytes_wf {s t : State} {a : Nat} {bs : List Byte}
    (h : s.writeBytes a bs = some t) (hw : Memory.wf s.cfg.font s.mem) :
    Memory.wf t.cfg.font t.mem := by
  induction bs generalizing s a with
  | nil =>
    simp only [State.writeBytes, Option.some.injEq] at h
    subst h
    exact hw
  | cons v bs ih =>
    simp only [State.writeBytes, State.memWrite] at h
    split at h
    · rename_i u hu
      split at hu
      · cases hu
      · rename_i ha
        simp only [Option.some.injEq] at hu
        subst hu
        exact ih h (Memory.wf_write hw (by omega) v)
    · cases h

end Sys2Proof.Machine
end

