-- ==== Sys2Proof/Laws/Ops.lean ====
section
/-! SUPPORT. What the shared operations over the call stack, the register file and the flag do. -/

namespace Sys2Proof.Machine

/-! ## Call stack (rule R39) -/

theorem State.pushReturn_of_room (s : State) (ra : Word) (h : s.sp.val < 16) :
    s.pushReturn ra = some (s.setStack (s.stack.set s.sp.val ra) ⟨s.sp.val + 1, by omega⟩) := by
  simp [State.pushReturn, h]

theorem State.pushReturn_full (s : State) (ra : Word) (h : s.sp = 16) : s.pushReturn ra = none := by
  simp [State.pushReturn, h]

theorem State.popReturn_of_pos (s : State) (h : 0 < s.sp.val) :
    s.popReturn = some (s.stack[s.sp.val - 1]'(by omega), s.setStack s.stack ⟨s.sp.val - 1, by omega⟩) := by
  unfold State.popReturn
  split
  · rename_i heq
    rw [heq] at h
    exact absurd h (lt_irrefl _)
  · rename_i k hk heq
    have : s.sp.val = k + 1 := by rw [heq]
    simp [this]

theorem State.popReturn_empty (s : State) (h : s.sp = 0) : s.popReturn = none := by
  unfold State.popReturn
  split
  · rfl
  · rename_i k hk heq
    rw [h] at heq
    simp [Fin.ext_iff] at heq

/-! ## The register file -/

/-- FX65's loop: register r takes byte r - k where there is one, and nothing but registers changes. -/
theorem State.setRegsFrom_reg (s : State) (k : Nat) (bs : List Byte) (r : RegIdx) :
    (s.setRegsFrom k bs).reg r =
      if h : k ≤ r.val ∧ r.val < k + bs.length then bs[r.val - k]'(by omega) else s.reg r := by
  induction bs generalizing s k with
  | nil => rw [dif_neg (by simp)]; rfl
  | cons b bs ih =>
    simp only [State.setRegsFrom, ih, List.length_cons]
    by_cases h : k + 1 ≤ r.val ∧ r.val < k + 1 + bs.length
    · have h' : k ≤ r.val ∧ r.val < k + (bs.length + 1) := by omega
      have : r.val - k = (r.val - (k + 1)) + 1 := by omega
      simp only [dif_pos h, dif_pos h', this, List.getElem_cons_succ]
    · rw [dif_neg h]
      by_cases hk : r.val = k
      · have h16 : k < 16 := hk ▸ r.isLt
        have hr : r = ⟨k, h16⟩ := Fin.ext hk
        have h' : k ≤ r.val ∧ r.val < k + (bs.length + 1) := by omega
        have h0 : r.val - k = 0 := by omega
        rw [dif_pos h', dif_pos h16, State.reg_setReg, if_pos hr]
        simp only [h0, List.getElem_cons_zero]
      · rw [dif_neg (show ¬ (k ≤ r.val ∧ r.val < k + (bs.length + 1)) by omega)]
        by_cases h16 : k < 16
        · rw [dif_pos h16, State.reg_setReg, if_neg (fun e => hk (by rw [e]))]
        · rw [dif_neg h16]

theorem State.setRegsFrom_eq (s : State) (k : Nat) (bs : List Byte) :
    s.setRegsFrom k bs = { s with v := (s.setRegsFrom k bs).v } := by
  induction bs generalizing s k with
  | nil => rfl
  | cons b bs ih =>
    simp only [State.setRegsFrom]
    rw [ih]
    split <;> rfl

@[simp] theorem State.regsUpTo_length (s : State) (x : RegIdx) : (s.regsUpTo x).length = x.val + 1 := by
  simp only [State.regsUpTo, List.length_take, Vector.length_toList]
  omega

theorem State.regsUpTo_getElem (s : State) (x : RegIdx) (k : Nat) (h : k < (s.regsUpTo x).length) :
    (s.regsUpTo x)[k] = s.reg ⟨k, by rw [State.regsUpTo_length] at h; omega⟩ := by
  simp [State.regsUpTo, State.reg]

/-! ## Flags (rule R180) -/

/-- The two writes of rule R180 change nothing but the register file. -/
theorem State.flagOp_eq (s : State) (fl res : Byte → Byte → Byte) (x y : RegIdx) :
    s.flagOp fl res x y = { s with v := (s.flagOp fl res x y).v } := by
  unfold State.flagOp
  split <;> rfl

/-- The three readings agree away from VF: VX takes the result, VF the flag (rule R180). -/
theorem State.flagOp_reg (s : State) (fl res : Byte → Byte → Byte) (x y r : RegIdx)
    (hx : x ≠ vf) (hy : y ≠ vf) :
    (s.flagOp fl res x y).reg r =
      if r = x then res (s.reg x) (s.reg y) else if r = vf then fl (s.reg x) (s.reg y) else s.reg r := by
  unfold State.flagOp
  split <;> simp only [State.reg_setReg, if_neg hx, if_neg hy]
  by_cases h1 : r = vf <;> by_cases h2 : r = x <;> simp_all

/-- Every register but VX and VF is as it was. -/
theorem State.flagOp_reg_other (s : State) (fl res : Byte → Byte → Byte) (x y r : RegIdx)
    (hx : r ≠ x) (hf : r ≠ vf) : (s.flagOp fl res x y).reg r = s.reg r := by
  unfold State.flagOp
  split <;> simp [hx, hf]

theorem flagByte_toNat (c : Bool) : (flagByte c).toNat = if c then 1 else 0 := by
  cases c <;> rfl

theorem addResult_toNat (a b : Byte) : (addResult a b).toNat = (a.toNat + b.toNat) % 256 := by
  simp [addResult]

theorem subResult_toNat (a b : Byte) : (subResult a b).toNat = (a.toNat + 256 - b.toNat) % 256 := by
  have := a.isLt
  have := b.isLt
  simp only [subResult, BitVec.toNat_ofInt]
  omega

theorem subnResult_toNat (a b : Byte) : (subnResult a b).toNat = (b.toNat + 256 - a.toNat) % 256 :=
  subResult_toNat b a

theorem shrResult_toNat (a b : Byte) : (shrResult a b).toNat = a.toNat / 2 := by
  simp [shrResult, Nat.shiftRight_eq_div_pow]

theorem shlResult_toNat (a b : Byte) : (shlResult a b).toNat = (2 * a.toNat) % 256 := by
  simp [shlResult, Nat.shiftLeft_eq, Nat.mul_comm]

/-! ## The oracle of rule R12 -/

theorem mem_pressedKeys {keys : BitVec 16} {k : Nat} :
    k ∈ pressedKeys keys ↔ k < 16 ∧ keys.getLsbD k = true := by
  simp [pressedKeys]

/-- Some key is pressed exactly when KEYS is not empty. -/
theorem pressedKeys_ne_nil {keys : BitVec 16} (h : keys ≠ 0) : pressedKeys keys ≠ [] := by
  intro hnil
  apply h
  apply BitVec.eq_of_getLsbD_eq
  intro k hk
  by_contra hne
  have : k ∈ pressedKeys keys := mem_pressedKeys.mpr ⟨hk, by simpa using hne⟩
  rw [hnil] at this
  cases this

/-- KEYPICK gives the code of a pressed key (rule R12). -/
theorem State.chosenKey_pressed (s : State) (h : s.keys ≠ 0) :
    s.chosenKey.toNat ≤ 0xF ∧ s.keys.getLsbD s.chosenKey.toNat = true := by
  have hpos : 0 < (pressedKeys s.keys).length :=
    List.length_pos_iff.mpr (pressedKeys_ne_nil h)
  have hlt := Nat.mod_lt (Config.keyPickIndex s.keyPicks s.keys) hpos
  have hmem := mem_pressedKeys.mp (List.getElem_mem hlt)
  have hval : s.chosenKey.toNat =
      (pressedKeys s.keys)[Config.keyPickIndex s.keyPicks s.keys % (pressedKeys s.keys).length] := by
    simp only [State.chosenKey, List.getElem?_eq_getElem hlt, Option.getD_some, BitVec.toNat_ofNat]
    omega
  rw [hval]
  exact ⟨by omega, hmem.2⟩

/-! ## Timers (rule R287) -/

theorem tickTimer_toNat (b : Byte) : (tickTimer b).toNat = b.toNat - 1 := by
  unfold tickTimer
  split
  · rename_i h
    subst h
    rfl
  · rename_i h
    have : b.toNat ≠ 0 := fun h0 => h (BitVec.eq_of_toNat_eq h0)
    have := b.isLt
    rw [BitVec.toNat_sub]
    simp
    omega

end Sys2Proof.Machine
end

