-- ==== Sys2Proof/Laws/Display.lean ====
section
/-! SUPPORT. The framebuffer: one pixel flipped, and a draw as the sequence of the pixels it hits. -/

namespace Sys2Proof.Machine

/-! ## One pixel -/

theorem Framebuffer.wf_clear (w h : Nat) : Framebuffer.wf w h (Framebuffer.clear w h) := by
  simp [Framebuffer.wf, Framebuffer.clear]

@[simp] theorem Framebuffer.get_clear (w h x y : Nat) : (Framebuffer.clear w h).get x y = false := by
  simp only [Framebuffer.get, Framebuffer.clear, List.getElem?_replicate]
  split
  · simp only [Option.getD_some, List.getElem?_replicate]
    split <;> rfl
  · rfl

theorem Framebuffer.wf_toggle {w h : Nat} {fb : Framebuffer} (hw : Framebuffer.wf w h fb) (x y : Nat) :
    Framebuffer.wf w h (fb.toggle x y) := by
  refine ⟨by simp [Framebuffer.toggle, hw.1], fun row hr => ?_⟩
  obtain ⟨k, hk, rfl⟩ := List.mem_iff_getElem.mp hr
  simp only [Framebuffer.toggle, List.length_modify] at hk
  simp only [Framebuffer.toggle, List.getElem_modify]
  split
  · rw [List.length_modify]
    exact hw.2 _ (List.getElem_mem _)
  · exact hw.2 _ (List.getElem_mem _)

/-- A flip changes the one pixel, and no other. -/
theorem Framebuffer.get_toggle {w h : Nat} {fb : Framebuffer} (hw : Framebuffer.wf w h fb)
    {x y : Nat} (hx : x < w) (hy : y < h) (a b : Nat) :
    (fb.toggle x y).get a b = (fb.get a b != decide ((a, b) = (x, y))) := by
  have hlen : y < fb.length := by rw [hw.1]; exact hy
  have hrow : (fb[y]'hlen).length = w := hw.2 _ (List.getElem_mem _)
  simp only [Framebuffer.get, Framebuffer.toggle, List.getElem?_modify, Option.map_eq_map]
  by_cases hb : y = b
  · subst hb
    rw [List.getElem?_eq_getElem hlen]
    simp only [if_true, Option.map_some, Option.getD_some, List.getElem?_modify, Option.map_eq_map]
    by_cases ha : x = a
    · subst ha
      have hxl : x < (fb[y]'hlen).length := by rw [hrow]; exact hx
      simp [List.getElem?_eq_getElem hxl]
    · have : ¬ a = x := fun e => ha e.symm
      simp [ha, this]
  · have : ¬ b = y := fun e => hb e.symm
    simp [hb, this]

theorem Framebuffer.toggle_toggle (fb : Framebuffer) (x y : Nat) :
    (fb.toggle x y).toggle x y = fb := by
  apply List.ext_getElem?
  intro b
  simp only [Framebuffer.toggle, List.getElem?_modify, Option.map_eq_map]
  by_cases hb : y = b
  · simp only [hb, if_true]
    cases fb[b]? with
    | none => rfl
    | some row =>
      simp only [Option.map_some, Option.some.injEq]
      apply List.ext_getElem?
      intro a
      simp only [List.getElem?_modify, Option.map_eq_map]
      by_cases ha : x = a
      · cases row[a]? <;> simp [ha]
      · simp [ha]
  · simp [hb]

theorem Framebuffer.toggle_comm (fb : Framebuffer) (x y a b : Nat) :
    (fb.toggle x y).toggle a b = (fb.toggle a b).toggle x y := by
  apply List.ext_getElem?
  intro k
  simp only [Framebuffer.toggle, List.getElem?_modify, Option.map_eq_map]
  by_cases h1 : y = k <;> by_cases h2 : b = k <;> simp only [h1, h2, if_true, if_false, Option.map_id']
  cases fb[k]? with
  | none => rfl
  | some row =>
    simp only [Option.map_some, Option.some.injEq]
    apply List.ext_getElem?
    intro j
    simp only [List.getElem?_modify, Option.map_eq_map]
    by_cases h3 : x = j <;> by_cases h4 : a = j <;> cases row[j]? <;> simp [h3, h4]

/-! ## A draw as the list of its hits -/

/-- One set sprite bit: the pixel is flipped, and a collision noted if it was set. -/
def Framebuffer.hit (acc : Framebuffer × Bool) (p : Nat × Nat) : Framebuffer × Bool :=
  (acc.1.toggle p.1 p.2, acc.2 || acc.1.get p.1 p.2)

theorem Framebuffer.drawRow_eq_hits (w h x0 y0 row : Nat) (sprite : Byte) (acc : Framebuffer × Bool) :
    Framebuffer.drawRow w h x0 y0 row sprite acc =
      (((List.range 8).filter fun col => sprite.getLsbD (7 - col)).map fun col =>
        ((x0 + col) % w, (y0 + row) % h)).foldl Framebuffer.hit acc := by
  have key : ∀ (cols : List Nat) (acc : Framebuffer × Bool),
      cols.foldl (Framebuffer.drawBit w h x0 y0 row sprite) acc =
        ((cols.filter fun col => sprite.getLsbD (7 - col)).map fun col =>
          ((x0 + col) % w, (y0 + row) % h)).foldl Framebuffer.hit acc := by
    intro cols
    induction cols with
    | nil => intro acc; rfl
    | cons c cols ih =>
      intro acc
      rw [List.foldl_cons, ih]
      by_cases hc : sprite.getLsbD (7 - c) = true
      · simp [hc, Framebuffer.drawBit, Framebuffer.hit]
      · simp [hc, Framebuffer.drawBit]
  exact key _ acc

/-- The rows of a sprite, drawn in order, are its hits in order. -/
theorem Framebuffer.drawRows_eq_hits (w h x0 y0 : Nat) (rows : List Byte) (acc : Framebuffer × Bool) :
    Framebuffer.drawRows w h x0 y0 0 rows acc =
      (spriteHits w h x0 y0 rows).foldl Framebuffer.hit acc := by
  have key : ∀ (rows : List Byte) (r0 : Nat) (acc : Framebuffer × Bool),
      Framebuffer.drawRows w h x0 y0 r0 rows acc =
        ((List.range rows.length).flatMap fun row =>
          ((List.range 8).filter fun col => (rows.getD row 0).getLsbD (7 - col)).map fun col =>
            ((x0 + col) % w, (y0 + (r0 + row)) % h)).foldl Framebuffer.hit acc := by
    intro rows
    induction rows with
    | nil => intro r0 acc; rfl
    | cons b bs ih =>
      intro r0 acc
      simp only [Framebuffer.drawRows, ih, Framebuffer.drawRow_eq_hits, List.length_cons,
        List.range_succ_eq_map, List.flatMap_cons, List.foldl_append, List.getD_cons_zero,
        Nat.add_zero, List.flatMap_map, List.getD_cons_succ]
      have : ∀ row, r0 + 1 + row = r0 + (row + 1) := by intro row; omega
      simp only [this, Nat.succ_eq_add_one]
  have := key rows 0 acc
  simpa [spriteHits] using this

theorem Framebuffer.wf_hits {w h : Nat} (hits : List (Nat × Nat)) (acc : Framebuffer × Bool)
    (hw : Framebuffer.wf w h acc.1) : Framebuffer.wf w h (hits.foldl Framebuffer.hit acc).1 := by
  induction hits generalizing acc with
  | nil => exact hw
  | cons p hits ih => exact ih _ (Framebuffer.wf_toggle hw _ _)

/-- Every hit of a sprite is a pixel of the grid. -/
theorem spriteHits_inside {w h : Nat} (hw : 0 < w) (hh : 0 < h) (x0 y0 : Nat) (rows : List Byte) :
    ∀ p ∈ spriteHits w h x0 y0 rows, p.1 < w ∧ p.2 < h := by
  intro p hp
  simp only [spriteHits, List.mem_flatMap, List.mem_map] at hp
  obtain ⟨row, -, col, -, rfl⟩ := hp
  exact ⟨Nat.mod_lt _ hw, Nat.mod_lt _ hh⟩

/-- Hits commute with one flip, in what they leave in the framebuffer. -/
theorem Framebuffer.hits_toggle (hits : List (Nat × Nat)) (fb : Framebuffer) (c d : Bool) (x y : Nat) :
    (hits.foldl Framebuffer.hit (fb.toggle x y, c)).1 =
      ((hits.foldl Framebuffer.hit (fb, d)).1).toggle x y := by
  induction hits generalizing fb c d with
  | nil => rfl
  | cons p hits ih =>
    simp only [List.foldl_cons, Framebuffer.hit]
    rw [Framebuffer.toggle_comm]
    exact ih _ _ _

end Sys2Proof.Machine
end

