-- ==== Sys2Proof/Laws/PerInstr.lean ====
section
/-! SUPPORT. RowBits: the word of every instruction lies in its own row of spec/opcode_table.json: its
bits under the row's mask are the row's match. The masks and matches are the table's. -/

namespace Sys2Proof.Laws

/-- A row's mask and match. -/
def RowBits.row : Instr → Word × Word
  | .cls => (0xF0FF, 0x00E0)
  | .ret => (0xF0FF, 0x00EE)
  | .jp _ => (0xF000, 0x1000)
  | .call _ => (0xF000, 0x2000)
  | .se _ _ => (0xF000, 0x3000)
  | .sne _ _ => (0xF000, 0x4000)
  | .seR _ _ => (0xF000, 0x5000)
  | .ldI8 _ _ => (0xF000, 0x6000)
  | .addI8 _ _ => (0xF000, 0x7000)
  | .ldR _ _ => (0xF00F, 0x8000)
  | .orR _ _ => (0xF00F, 0x8001)
  | .andR _ _ => (0xF00F, 0x8002)
  | .xorR _ _ => (0xF00F, 0x8003)
  | .addR _ _ => (0xF00F, 0x8004)
  | .sub _ _ => (0xF00F, 0x8005)
  | .shr _ _ => (0xF00F, 0x8006)
  | .subn _ _ => (0xF00F, 0x8007)
  | .shl _ _ => (0xF00F, 0x8008)
  | .shlE _ _ => (0xF00F, 0x800E)
  | .sneR _ _ => (0xF000, 0x9000)
  | .ldIdx _ => (0xF000, 0xA000)
  | .jpV0 _ => (0xF000, 0xB000)
  | .rnd _ _ => (0xF000, 0xC000)
  | .drw _ _ _ => (0xF000, 0xD000)
  | .skp _ => (0xF0FF, 0xE09E)
  | .sknp _ => (0xF0FF, 0xE0A1)
  | .ldVxDt _ => (0xF0FF, 0xF007)
  | .ldVxK _ => (0xF0FF, 0xF00A)
  | .ldDtVx _ => (0xF0FF, 0xF015)
  | .ldStVx _ => (0xF0FF, 0xF018)
  | .addI _ => (0xF0FF, 0xF01E)
  | .ldF _ => (0xF0FF, 0xF029)
  | .ldB _ => (0xF0FF, 0xF033)
  | .ldStore _ => (0xF0FF, 0xF055)
  | .ldLoad _ => (0xF0FF, 0xF065)

/-- The instruction's word agrees with its row. -/
def RowBits.Statement (i : Instr) : Prop := encode i &&& (RowBits.row i).1 = (RowBits.row i).2

/-- The mask of a row that fixes C alone. -/
theorem RowBits.and_class (op : Word) : op &&& 0xF000 = packNNN (fieldC op) 0 := by
  have h : ∀ k, (packNNN (fieldC op) 0).getLsbD k =
      if k < 12 then (0 : BitVec 12).getLsbD k else (fieldC op).getLsbD (k - 12) := fun _ =>
    BitVec.getLsbD_append
  apply BitVec.eq_of_getLsbD_eq
  intro k hk
  rw [h]
  interval_cases k <;> simp [fieldC]

/-- The mask of a row that fixes C and N. -/
theorem RowBits.and_class_n (op : Word) :
    op &&& 0xF00F = packXYN (fieldC op) 0 0 (fieldN op) := by
  have h : ∀ k, (packXYN (fieldC op) 0 0 (fieldN op)).getLsbD k =
      if k < 4 then (op.extractLsb' 0 4).getLsbD k
      else if k - 4 < 4 then (0 : BitVec 4).getLsbD (k - 4)
      else if k - 4 - 4 < 4 then (0 : BitVec 4).getLsbD (k - 4 - 4)
      else (fieldC op).getLsbD (k - 4 - 4 - 4) := by
    intro k
    refine BitVec.getLsbD_append.trans ?_
    refine ite_congr rfl (fun _ => rfl) (fun _ => BitVec.getLsbD_append.trans ?_)
    exact ite_congr rfl (fun _ => rfl) (fun _ => BitVec.getLsbD_append)
  apply BitVec.eq_of_getLsbD_eq
  intro k hk
  rw [h]
  interval_cases k <;> simp [fieldC]

/-- The mask of a row that fixes C and NN. -/
theorem RowBits.and_class_nn (op : Word) :
    op &&& 0xF0FF = packXNN (fieldC op) 0 (fieldNN op) := by
  have h : ∀ k, (packXNN (fieldC op) 0 (fieldNN op)).getLsbD k =
      if k < 8 then (fieldNN op).getLsbD k
      else if k - 8 < 4 then (0 : BitVec 4).getLsbD (k - 8)
      else (fieldC op).getLsbD (k - 8 - 4) := by
    intro k
    refine BitVec.getLsbD_append.trans ?_
    exact ite_congr rfl (fun _ => rfl) (fun _ => BitVec.getLsbD_append)
  apply BitVec.eq_of_getLsbD_eq
  intro k hk
  rw [h]
  interval_cases k <;> simp [fieldC, fieldNN]

theorem RowBits.cls : RowBits.Statement (.cls) := by
  simp only [RowBits.Statement, RowBits.row, encode, RowBits.and_class_nn,
    fieldC_packXNN, fieldNN_packXNN]
  rfl

theorem RowBits.ret : RowBits.Statement (.ret) := by
  simp only [RowBits.Statement, RowBits.row, encode, RowBits.and_class_nn,
    fieldC_packXNN, fieldNN_packXNN]
  rfl

theorem RowBits.jp (nnn : Addr) : RowBits.Statement (.jp nnn) := by
  simp only [RowBits.Statement, RowBits.row, encode, RowBits.and_class,
    fieldC_packNNN]
  rfl

theorem RowBits.call (nnn : Addr) : RowBits.Statement (.call nnn) := by
  simp only [RowBits.Statement, RowBits.row, encode, RowBits.and_class,
    fieldC_packNNN]
  rfl

theorem RowBits.se (x : RegIdx) (nn : Byte) : RowBits.Statement (.se x nn) := by
  simp only [RowBits.Statement, RowBits.row, encode, RowBits.and_class,
    fieldC_packXNN]
  rfl

theorem RowBits.sne (x : RegIdx) (nn : Byte) : RowBits.Statement (.sne x nn) := by
  simp only [RowBits.Statement, RowBits.row, encode, RowBits.and_class,
    fieldC_packXNN]
  rfl

theorem RowBits.seR (x : RegIdx) (y : RegIdx) : RowBits.Statement (.seR x y) := by
  simp only [RowBits.Statement, RowBits.row, encode, RowBits.and_class,
    fieldC_packXYN]
  rfl

theorem RowBits.ldI8 (x : RegIdx) (nn : Byte) : RowBits.Statement (.ldI8 x nn) := by
  simp only [RowBits.Statement, RowBits.row, encode, RowBits.and_class,
    fieldC_packXNN]
  rfl

theorem RowBits.addI8 (x : RegIdx) (nn : Byte) : RowBits.Statement (.addI8 x nn) := by
  simp only [RowBits.Statement, RowBits.row, encode, RowBits.and_class,
    fieldC_packXNN]
  rfl

theorem RowBits.ldR (x : RegIdx) (y : RegIdx) : RowBits.Statement (.ldR x y) := by
  simp only [RowBits.Statement, RowBits.row, encode, RowBits.and_class_n,
    fieldC_packXYN, fieldN_packXYN]
  rfl

theorem RowBits.orR (x : RegIdx) (y : RegIdx) : RowBits.Statement (.orR x y) := by
  simp only [RowBits.Statement, RowBits.row, encode, RowBits.and_class_n,
    fieldC_packXYN, fieldN_packXYN]
  rfl

theorem RowBits.andR (x : RegIdx) (y : RegIdx) : RowBits.Statement (.andR x y) := by
  simp only [RowBits.Statement, RowBits.row, encode, RowBits.and_class_n,
    fieldC_packXYN, fieldN_packXYN]
  rfl

theorem RowBits.xorR (x : RegIdx) (y : RegIdx) : RowBits.Statement (.xorR x y) := by
  simp only [RowBits.Statement, RowBits.row, encode, RowBits.and_class_n,
    fieldC_packXYN, fieldN_packXYN]
  rfl

theorem RowBits.addR (x : RegIdx) (y : RegIdx) : RowBits.Statement (.addR x y) := by
  simp only [RowBits.Statement, RowBits.row, encode, RowBits.and_class_n,
    fieldC_packXYN, fieldN_packXYN]
  rfl

theorem RowBits.sub (x : RegIdx) (y : RegIdx) : RowBits.Statement (.sub x y) := by
  simp only [RowBits.Statement, RowBits.row, encode, RowBits.and_class_n,
    fieldC_packXYN, fieldN_packXYN]
  rfl

theorem RowBits.shr (x : RegIdx) (y : RegIdx) : RowBits.Statement (.shr x y) := by
  simp only [RowBits.Statement, RowBits.row, encode, RowBits.and_class_n,
    fieldC_packXYN, fieldN_packXYN]
  rfl

theorem RowBits.subn (x : RegIdx) (y : RegIdx) : RowBits.Statement (.subn x y) := by
  simp only [RowBits.Statement, RowBits.row, encode, RowBits.and_class_n,
    fieldC_packXYN, fieldN_packXYN]
  rfl

theorem RowBits.shl (x : RegIdx) (y : RegIdx) : RowBits.Statement (.shl x y) := by
  simp only [RowBits.Statement, RowBits.row, encode, RowBits.and_class_n,
    fieldC_packXYN, fieldN_packXYN]
  rfl

theorem RowBits.shlE (x : RegIdx) (y : RegIdx) : RowBits.Statement (.shlE x y) := by
  simp only [RowBits.Statement, RowBits.row, encode, RowBits.and_class_n,
    fieldC_packXYN, fieldN_packXYN]
  rfl

theorem RowBits.sneR (x : RegIdx) (y : RegIdx) : RowBits.Statement (.sneR x y) := by
  simp only [RowBits.Statement, RowBits.row, encode, RowBits.and_class,
    fieldC_packXYN]
  rfl

theorem RowBits.ldIdx (nnn : Addr) : RowBits.Statement (.ldIdx nnn) := by
  simp only [RowBits.Statement, RowBits.row, encode, RowBits.and_class,
    fieldC_packNNN]
  rfl

theorem RowBits.jpV0 (nnn : Addr) : RowBits.Statement (.jpV0 nnn) := by
  simp only [RowBits.Statement, RowBits.row, encode, RowBits.and_class,
    fieldC_packNNN]
  rfl

theorem RowBits.rnd (x : RegIdx) (nn : Byte) : RowBits.Statement (.rnd x nn) := by
  simp only [RowBits.Statement, RowBits.row, encode, RowBits.and_class,
    fieldC_packXNN]
  rfl

theorem RowBits.drw (x : RegIdx) (y : RegIdx) (n : Fin 16) : RowBits.Statement (.drw x y n) := by
  simp only [RowBits.Statement, RowBits.row, encode, RowBits.and_class,
    fieldC_packXYN]
  rfl

theorem RowBits.skp (x : RegIdx) : RowBits.Statement (.skp x) := by
  simp only [RowBits.Statement, RowBits.row, encode, RowBits.and_class_nn,
    fieldC_packXNN, fieldNN_packXNN]
  rfl

theorem RowBits.sknp (x : RegIdx) : RowBits.Statement (.sknp x) := by
  simp only [RowBits.Statement, RowBits.row, encode, RowBits.and_class_nn,
    fieldC_packXNN, fieldNN_packXNN]
  rfl

theorem RowBits.ldVxDt (x : RegIdx) : RowBits.Statement (.ldVxDt x) := by
  simp only [RowBits.Statement, RowBits.row, encode, RowBits.and_class_nn,
    fieldC_packXNN, fieldNN_packXNN]
  rfl

theorem RowBits.ldVxK (x : RegIdx) : RowBits.Statement (.ldVxK x) := by
  simp only [RowBits.Statement, RowBits.row, encode, RowBits.and_class_nn,
    fieldC_packXNN, fieldNN_packXNN]
  rfl

theorem RowBits.ldDtVx (x : RegIdx) : RowBits.Statement (.ldDtVx x) := by
  simp only [RowBits.Statement, RowBits.row, encode, RowBits.and_class_nn,
    fieldC_packXNN, fieldNN_packXNN]
  rfl

theorem RowBits.ldStVx (x : RegIdx) : RowBits.Statement (.ldStVx x) := by
  simp only [RowBits.Statement, RowBits.row, encode, RowBits.and_class_nn,
    fieldC_packXNN, fieldNN_packXNN]
  rfl

theorem RowBits.addI (x : RegIdx) : RowBits.Statement (.addI x) := by
  simp only [RowBits.Statement, RowBits.row, encode, RowBits.and_class_nn,
    fieldC_packXNN, fieldNN_packXNN]
  rfl

theorem RowBits.ldF (x : RegIdx) : RowBits.Statement (.ldF x) := by
  simp only [RowBits.Statement, RowBits.row, encode, RowBits.and_class_nn,
    fieldC_packXNN, fieldNN_packXNN]
  rfl

theorem RowBits.ldB (x : RegIdx) : RowBits.Statement (.ldB x) := by
  simp only [RowBits.Statement, RowBits.row, encode, RowBits.and_class_nn,
    fieldC_packXNN, fieldNN_packXNN]
  rfl

theorem RowBits.ldStore (x : RegIdx) : RowBits.Statement (.ldStore x) := by
  simp only [RowBits.Statement, RowBits.row, encode, RowBits.and_class_nn,
    fieldC_packXNN, fieldNN_packXNN]
  rfl

theorem RowBits.ldLoad (x : RegIdx) : RowBits.Statement (.ldLoad x) := by
  simp only [RowBits.Statement, RowBits.row, encode, RowBits.and_class_nn,
    fieldC_packXNN, fieldNN_packXNN]
  rfl

end Sys2Proof.Laws
end

