-- ==== Sys2Proof/Laws/Step.lean ====
section
/-! SUPPORT. Everything one step can be, said once (rule R104). -/

namespace Sys2Proof.Machine

/-- The four ways of a step: halted, out of range at the fetch, on a word that selects no executor, or
running the instruction that the word decodes to. -/
theorem step_cases (s : State) :
    (s.halted = true ∧ step s = .next s) ∨
    (s.halted = false ∧ s.fetch = none ∧ step s = .next (s.halt .fetchBounds)) ∨
    (∃ op u, s.halted = false ∧ s.fetch = some op ∧ decodeWord s.cfg op = .error u ∧
      step s = .next s.advance.endOfStep) ∨
    (∃ op i, s.halted = false ∧ s.fetch = some op ∧ decodeWord s.cfg op = .ok i ∧
      step s = endStep (exec i s)) := by
  unfold step cycle
  by_cases hh : s.halted = true
  · exact .inl ⟨hh, by simp [hh]⟩
  · have hf : s.halted = false := by simpa using hh
    right
    cases hfetch : s.fetch with
    | none => exact .inl ⟨hf, rfl, by simp [hf, raiseFatal]⟩
    | some op =>
      right
      cases hdec : decodeWord s.cfg op with
      | error u => exact .inl ⟨op, u, hf, rfl, hdec, by simp [hf, hdec, execUnrecognized, endStep]⟩
      | ok i => exact .inr ⟨op, i, hf, rfl, hdec, by simp [hf, hdec]⟩

/-- The fetch fails exactly above 0xFFE (rule R106). -/
theorem State.fetch_eq_none (s : State) : s.fetch = none ↔ 0xFFE < s.pc.toNat := by
  unfold State.fetch
  split <;> simp_all

/-- The fetch of a pc in range (rule R105). -/
theorem State.fetch_eq_some (s : State) (h : s.pc.toNat ≤ 0xFFE) :
    s.fetch = some (wordOfBytes (s.readByte s.pc.toNat) (s.readByte (s.pc.toNat + 1))) := by
  unfold State.fetch
  rw [if_neg (by omega)]

/-- What the end of a step changes: at most the two timers. -/
theorem State.endOfStep_cases (t : State) :
    (t.halted = true ∧ t.endOfStep = t) ∨
    (t.halted = false ∧ t.cfg.timersInStep = false ∧ t.endOfStep = t) ∨
    (t.halted = false ∧ t.cfg.timersInStep = true ∧ t.endOfStep = t.tick) := by
  unfold State.endOfStep
  cases t.halted <;> cases t.cfg.timersInStep <;> simp

/-- A word placed at pc is the word that is fetched there. -/
theorem State.fetch_placeWord (s : State) (w : Word) (h : s.pc.toNat ≤ 0xFFE) :
    (s.placeWord w).fetch = some w := by
  unfold State.placeWord
  cases hw : s.writeBytes s.pc.toNat (bytesOfWord w) with
  | none =>
    rw [State.writeBytes_eq_none] at hw
    simp [bytesOfWord] at hw
    omega
  | some t =>
    obtain ⟨-, ht, hr⟩ := State.writeBytes_some hw
    have hpc : t.pc = s.pc := by rw [ht]; rfl
    simp only [Option.getD_some]
    rw [State.fetch_eq_some t (by rw [hpc]; exact h), hpc, hr, hr]
    have h0 : s.pc.toNat ≤ s.pc.toNat ∧ s.pc.toNat < s.pc.toNat + (bytesOfWord w).length := by
      simp [bytesOfWord]
    have h1 : s.pc.toNat ≤ s.pc.toNat + 1 ∧
        s.pc.toNat + 1 < s.pc.toNat + (bytesOfWord w).length := by
      simp [bytesOfWord]
    rw [dif_pos h0, dif_pos h1]
    simp only [bytesOfWord, Nat.sub_self, Nat.add_sub_cancel_left, List.getElem_cons_zero,
      List.getElem_cons_succ, wordOfBytes_bytesOfWord]

/-! ## What a step returns (rule R48) -/

/-- The status of a running step on a decoded instruction is that instruction's. -/
theorem State.stepResult_of_fetches {s : State} {i : Instr} (hh : s.halted = false) (hf : s.Fetches i) :
    s.stepResult = execResult i s := by
  obtain ⟨op, hop, hdec⟩ := hf
  simp [State.stepResult, hh, hop, hdec]

/-- LD VX, K reports whether a key was pressed (rule R283). -/
@[simp] theorem execResult_ldVxK (x : RegIdx) (s : State) :
    execResult (.ldVxK x) s = if s.keys = 0 then .waitKey else .ok := rfl

/-- Every other instruction reports the fatal error it raised, or OK (rule R311). -/
theorem execResult_of_exec {i : Instr} {s t : State} (hk : ∀ x, i ≠ .ldVxK x) (h : exec i s = .next t) :
    execResult i s = if t.halted then .fatal t.err else .ok := by
  cases i <;> simp only [execResult, h]
  exact absurd rfl (hk _)

/-! ## Runs -/

/-- One step of a run of any machine. -/
theorem run_succ (M : Host.Core) (k : Nat) (s : M.State) :
    M.run (k + 1) s =
      match M.step s with
      | .next t => M.run k t
      | .fault r => .fault r
      | .refused r => .refused r := rfl

/-- A run of this machine whose first step answers a next state goes on from there. -/
theorem core_run_succ {s t : State} (h : step s = .next t) (k : Nat) :
    Host.Core.run Sys2Proof.core (k + 1) s = Host.Core.run Sys2Proof.core k t := by
  rw [run_succ Sys2Proof.core k s, show Sys2Proof.core.step s = .next t from h]

end Sys2Proof.Machine
end

