-- ==== Sys2Proof/Tests/Slice0.lean ====
section
/-! SUPPORT. Tests by evaluation. The words are written out from the encodings of 30_encoding.md rule R108,
the expected results are the vectors of 95_test_vectors.md (L1, L2), and each statement that has hypotheses
has a witness that meets them. -/

namespace Sys2Proof.Tests

open Sys2Proof Sys2Proof.Machine

/-! ## Helpers -/

/-- The state right after reset with one instruction word at 0x200, and what else f sets. -/
def start (w : Nat) (f : State → State := id) : State := (f State.reset).withFetchWord 16 w

/-- One value of the state after one step. -/
def after {α : Type} (s : State) (f : State → α) : Option α :=
  match step s with
  | .next t => some (f t)
  | .fault _ => none
  | .refused _ => none

/-- V1 and V2 with VF = AA, as the tables of L2-3.2 start. -/
def regs12 (a b : Byte) (s : State) : State := ((s.setReg 1 a).setReg 2 b).setReg 15 0xAA

/-- V1 and VF. -/
def v1vf (t : State) : Byte × Byte := (t.reg 1, t.reg 15)

/-- Sets one parameter record. -/
def withCfg (c : Config) (s : State) : State := { s with cfg := c }

/-- Default parameters but for FLAG_ORDER. -/
def order (o : FlagOrder) : Config := { Config.standard with flagOrder := o }

/-! ## Well-formedness: each check has a term it refuses -/

theorem test_shlE_ill_formed_without_alias :
    (Instr.shlE 1 2).wellFormed { Config.standard with shlAliasE := false } = false := by decide
theorem test_shlE_well_formed_with_alias : (Instr.shlE 1 2).wellFormed Config.standard = true := by decide
theorem test_ill_formed_word_refused :
    decodeWord { Config.standard with shlAliasE := false } (encode (.shlE 1 2)) = .error (.class8 14) := by
  decide

/-! ## Decoding: one word of every row, in bits -/

theorem test_decode_class0 :
    decodeTableWord 16 0b0000000011100000 = some .cls ∧
    decodeTableWord 16 0b0000000011101110 = some .ret := by decide
theorem test_decode_class1_to_7 :
    decodeTableWord 16 0b0001001000110100 = some (.jp 0x234) ∧
    decodeTableWord 16 0b0010001100000001 = some (.call 0x301) ∧
    decodeTableWord 16 0b0011001100010010 = some (.se 3 0x12) ∧
    decodeTableWord 16 0b0100001100010010 = some (.sne 3 0x12) ∧
    decodeTableWord 16 0b0101000100100000 = some (.seR 1 2) ∧
    decodeTableWord 16 0b0110101000111100 = some (.ldI8 10 0x3C) ∧
    decodeTableWord 16 0b0111001000100000 = some (.addI8 2 0x20) := by decide
theorem test_decode_class8 :
    decodeTableWord 16 0b1000000100100000 = some (.ldR 1 2) ∧
    decodeTableWord 16 0b1000000100100001 = some (.orR 1 2) ∧
    decodeTableWord 16 0b1000000100100010 = some (.andR 1 2) ∧
    decodeTableWord 16 0b1000000100100011 = some (.xorR 1 2) ∧
    decodeTableWord 16 0b1000000100100100 = some (.addR 1 2) ∧
    decodeTableWord 16 0b1000000100100101 = some (.sub 1 2) ∧
    decodeTableWord 16 0b1000000100100110 = some (.shr 1 2) ∧
    decodeTableWord 16 0b1000000100100111 = some (.subn 1 2) ∧
    decodeTableWord 16 0b1000000100101000 = some (.shl 1 2) ∧
    decodeTableWord 16 0b1000000100101110 = some (.shlE 1 2) := by decide
theorem test_decode_class9_to_D :
    decodeTableWord 16 0b1001000100100000 = some (.sneR 1 2) ∧
    decodeTableWord 16 0b1010001011110000 = some (.ldIdx 0x2F0) ∧
    decodeTableWord 16 0b1011001100000000 = some (.jpV0 0x300) ∧
    decodeTableWord 16 0b1100001100001111 = some (.rnd 3 0x0F) ∧
    decodeTableWord 16 0b1101000100101010 = some (.drw 1 2 10) := by decide
theorem test_decode_classE_F :
    decodeTableWord 16 0b1110000110011110 = some (.skp 1) ∧
    decodeTableWord 16 0b1110000110100001 = some (.sknp 1) ∧
    decodeTableWord 16 0b1111001100000111 = some (.ldVxDt 3) ∧
    decodeTableWord 16 0b1111001100001010 = some (.ldVxK 3) ∧
    decodeTableWord 16 0b1111001000010101 = some (.ldDtVx 2) ∧
    decodeTableWord 16 0b1111001000011000 = some (.ldStVx 2) ∧
    decodeTableWord 16 0b1111001000011110 = some (.addI 2) ∧
    decodeTableWord 16 0b1111011100101001 = some (.ldF 7) ∧
    decodeTableWord 16 0b1111000000110011 = some (.ldB 0) ∧
    decodeTableWord 16 0b1111000101010101 = some (.ldStore 1) ∧
    decodeTableWord 16 0b1111111101100101 = some (.ldLoad 15) := by decide
/-- The ignored bits of rule R110 (vectors of L2-1). -/
theorem test_decode_ignored_bits :
    decodeTableWord 16 0x01E0 = some .cls ∧ decodeTableWord 16 0x0FEE = some .ret ∧
    decodeTableWord 16 0x5121 = some (.seR 1 2) ∧ decodeTableWord 16 0x912F = some (.sneR 1 2) := by decide
/-- The words that L2-1 lists as unrecognized are rejected, each under its class. -/
theorem test_decode_rejects_by_name :
    decodeWord Config.standard 0x0123 = .error (.class0 0x23) ∧
    decodeWord Config.standard 0x8019 = .error (.class8 9) ∧
    decodeWord Config.standard 0xE000 = .error (.classE 0x00) ∧
    decodeWord Config.standard 0xF0FF = .error (.classF 0xFF) := by decide
theorem test_decode_truncated :
    decodeBytes Config.standard [0x12] = .error .truncated ∧
    decodeBytes Config.standard [] = .error .truncated := by decide
/-- A word lies high byte first, and the bytes after it are left over (rule R78). -/
theorem test_decode_bytes_high_first :
    decodeBytes Config.standard [0xA2, 0xF0, 0x12] = .ok (.ldIdx 0x2F0, [0x12]) := by decide

/-! ## Control transfer (L2-2) -/

theorem test_jp : after (start 0x1234) (·.pc) = some 0x234 := by decide
theorem test_call : after (start 0x2300) (fun t => (t.pc, t.sp, t.stack[0])) = some (0x300, 1, 0x202) := by
  decide
theorem test_call_full :
    after (start 0x2300 (fun s => s.setStack s.stack 16)) (fun t => (t.err, t.pc, t.sp)) =
      some (.stackOverflow, 0x200, 16) := by decide
theorem test_ret :
    after (start 0x00EE (fun s => s.setStack (s.stack.set 0 0x206) 1)) (fun t => (t.pc, t.sp, t.stack[0])) =
      some (0x206, 0, 0x206) := by decide
theorem test_ret_empty :
    after (start 0x00EE (fun s => s.setDt 5)) (fun t => (t.halted, t.err.number, t.pc, t.dt)) =
      some (true, 2, 0x200, 5) := by decide
theorem test_se :
    after (start 0x3312 (fun s => s.setReg 3 0x12)) (·.pc) = some 0x204 ∧
    after (start 0x3312 (fun s => s.setReg 3 0x13)) (·.pc) = some 0x202 := by decide
theorem test_sne :
    after (start 0x4312 (fun s => s.setReg 3 0x13)) (·.pc) = some 0x204 ∧
    after (start 0x4312 (fun s => s.setReg 3 0x12)) (·.pc) = some 0x202 := by decide
theorem test_seR :
    after (start 0x5120 (regs12 0x40 0x40)) (·.pc) = some 0x204 ∧
    after (start 0x5120 (regs12 0x40 0x41)) (·.pc) = some 0x202 := by decide
theorem test_sneR :
    after (start 0x9120 (regs12 0x40 0x41)) (·.pc) = some 0x204 ∧
    after (start 0x9110 (regs12 0x40 0x41)) (·.pc) = some 0x202 := by decide
/-- Not reduced to 12 bits (L2-2 number 20), and the register is V0, never VX (number 21). -/
theorem test_jpV0 :
    after (start 0xBFFF (fun s => s.setReg 0 0xFF)) (·.pc) = some 0x10FE ∧
    after (start 0xB300 (fun s => (s.setReg 0 1).setReg 1 0xFF)) (·.pc) = some 0x301 := by decide

/-! ## Arithmetic, logic and random (L2-3) -/

theorem test_ldI8 : after (start 0x6A3C) (·.reg 10) = some 0x3C := by decide
theorem test_addI8_wraps_without_flag :
    after (start 0x7201 (regs12 0 0xFF)) (fun t => (t.reg 2, t.reg 15)) = some (0x00, 0xAA) := by decide
theorem test_ldR : after (start 0x8120 (regs12 0x12 0x77)) v1vf = some (0x77, 0xAA) := by decide
theorem test_orR : after (start 0x8121 (regs12 0x0F 0xF0)) v1vf = some (0xFF, 0xAA) := by decide
theorem test_andR : after (start 0x8122 (regs12 0x3C 0x0F)) v1vf = some (0x0C, 0xAA) := by decide
theorem test_xorR : after (start 0x8123 (regs12 0x3C 0x0F)) v1vf = some (0x33, 0xAA) := by decide
theorem test_addR :
    after (start 0x8124 (regs12 0xFF 0x01)) v1vf = some (0x00, 1) ∧
    after (start 0x8124 (regs12 0x7F 0x80)) v1vf = some (0xFF, 0) := by decide
theorem test_sub :
    after (start 0x8125 (regs12 0x01 0x02)) v1vf = some (0xFF, 1) ∧
    after (start 0x8125 (regs12 0x05 0x05)) v1vf = some (0x00, 0) := by decide
theorem test_shr : after (start 0x8126 (regs12 0x05 0x99)) v1vf = some (0x02, 1) := by decide
theorem test_subn :
    after (start 0x8127 (regs12 0x05 0x05)) v1vf = some (0x00, 1) ∧
    after (start 0x8127 (regs12 0x02 0x01)) v1vf = some (0xFF, 0) := by decide
/-- 80 under MSB and 0F under LOW_NIBBLE (the table of 8128). -/
theorem test_shl :
    after (start 0x8128 (regs12 0x80 0)) v1vf = some (0x00, 1) ∧
    after (start 0x8128 (fun s => withCfg { Config.standard with shlFlag := .lowNibble } (regs12 0x0F 0 s)))
      v1vf = some (0x1E, 1) := by decide
theorem test_shlE :
    after (start 0x812E (regs12 0x81 0)) v1vf = some (0x02, 1) ∧
    (start 0x812E (withCfg { Config.standard with shlAliasE := false })).stepResult = .unrecognized := by
  decide
/-- The row 8F14 of L2-3.4, by FLAG_ORDER. -/
theorem test_flag_order_dest_vf :
    after (start 0x8F14 (fun s => (s.setReg 15 0xFF).setReg 1 1)) (·.reg 15) = some 0 ∧
    after (start 0x8F14 (fun s => withCfg (order .snapshotFlagLast) ((s.setReg 15 0xFF).setReg 1 1)))
      (·.reg 15) = some 1 ∧
    after (start 0x8F14 (fun s => withCfg (order .sequential) ((s.setReg 15 0xFF).setReg 1 1)))
      (·.reg 15) = some 2 := by decide
/-- The row 81F7 of L2-3.4. -/
theorem test_flag_order_source_vf :
    after (start 0x81F7 (fun s => (s.setReg 15 0x30).setReg 1 0x10)) v1vf = some (0x20, 1) ∧
    after (start 0x81F7 (fun s => withCfg (order .sequential) ((s.setReg 15 0x30).setReg 1 0x10)))
      v1vf = some (0xF1, 1) := by decide
/-- With NN = 00 the result is 00 whatever the byte, and one byte is drawn. -/
theorem test_rnd : ∃ t, step (start 0xC300) = .next t ∧ t.rndDraws = 1 ∧ t.pc = 0x202 := ⟨_, rfl, rfl, rfl⟩
theorem test_rnd_mask_zero : ∀ b : Byte, (0x00 : Byte) &&& b = 0 := by decide

/-! ## Index register and memory transfer (L2-4) -/

theorem test_ldIdx : after (start 0xA2F0) (·.i) = some 0x2F0 := by decide
theorem test_addI_wraps :
    after (start 0xF21E (fun s => (regs12 0 1 s).setI 0xFFFF)) (fun t => (t.i, t.reg 15)) =
      some (0x0000, 0xAA) := by decide
theorem test_ldF :
    after (start 0xF729 (fun s => s.setReg 7 0x0A)) (·.i) = some 0x032 ∧
    after (start 0xF329 (fun s => s.setReg 3 0xFF)) (·.i) = some 0x4FB := by decide
theorem test_ldB :
    after (start 0xF033 (fun s => (s.setReg 0 0x2A).setI 0xFFD))
      (fun t => (t.readByte 0xFFD, t.readByte 0xFFE, t.readByte 0xFFF, t.i)) = some (0, 4, 2, 0xFFD) := by
  decide
theorem test_ldB_out_of_range :
    after (start 0xF033 (fun s => s.setI 0xFFE)) (fun t => (t.err.number, t.pc)) = some (3, 0x200) := by decide
theorem test_ldStore :
    after (start 0xF155 (fun s => ((s.setReg 0 1).setReg 1 2).setI 0x400))
      (fun t => (t.readByte 0x400, t.readByte 0x401, t.readByte 0x402, t.i)) = some (1, 2, 0, 0x400) := by
  decide
theorem test_ldStore_out_of_range :
    after (start 0xF155 (fun s => (s.setReg 0 7).setI 0xFFF)) (fun t => (t.err, t.readByte 0xFFF)) =
      some (.memBounds, 0) := by decide
/-- Glyph 0 of the default font (L2-4 number 20). -/
theorem test_ldLoad :
    after (start 0xF465) (fun t => (t.reg 0, t.reg 1, t.reg 4, t.reg 5)) = some (0xF0, 0x90, 0xF0, 0) := by
  decide
theorem test_ldLoad_out_of_range :
    after (start 0xFF65 (fun s => s.setI 0xFF1)) (fun t => (t.err, t.reg 0)) = some (.memBounds, 0) := by decide

/-! ## Framebuffer (L2-5) -/

theorem test_cls :
    after (start 0x00E0 (fun s => (s.setFb (s.fb.toggle 3 4)).setReg 15 1)) (fun t => (t.pixel 3 4, t.reg 15)) =
      some (false, 1) := by decide
/-- Number 5: with X = F the column is VF's value before the draw. -/
theorem test_drw_column_from_vf :
    after (start 0xDF15 (fun s => (s.setReg 15 16).setReg 1 3))
      (fun t => (t.pixel 16 3, t.pixel 19 3, t.pixel 17 4, t.reg 15)) = some (true, true, false, 0) := by decide
/-- Number 13: with SCREEN_W = 4, 88 hits (0,0) twice. -/
theorem test_drw_hits_one_pixel_twice :
    after (start 0xD011 (fun s => (({ s with cfg := { s.cfg with screenW := 4 } }).setFb
        (Framebuffer.clear 4 32)).setI 0x300 |>.setMem [(0x300, 0x88)]))
      (fun t => (t.pixel 0 0, t.reg 15)) = some (false, 1) := by decide

/-! ## Keys and timers (L2-6) -/

theorem test_skp :
    after (start 0xE19E (fun s => (s.setReg 1 5).setKeys 0x20)) (·.pc) = some 0x204 ∧
    after (start 0xE19E (fun s => (s.setReg 1 0x10).setKeys 0xFFFF)) (·.pc) = some 0x202 := by decide
theorem test_sknp :
    after (start 0xE1A1 (fun s => (s.setReg 1 5).setKeys 0x20)) (·.pc) = some 0x202 ∧
    after (start 0xE1A1 (fun s => (s.setReg 1 0x10).setKeys 0xFFFF)) (·.pc) = some 0x204 := by decide
theorem test_ldVxK_waits :
    after (start 0xF30A (fun s => s.setDt 3)) (fun t => (t.pc, t.reg 3, t.dt)) = some (0x200, 0, 2) ∧
    (start 0xF30A).stepResult = .waitKey := by decide
theorem test_ldVxDt :
    after (start 0xF307 (fun s => s.setDt 0x3C)) (fun t => (t.reg 3, t.dt)) = some (0x3C, 0x3B) := by decide
theorem test_ldDtVx :
    after (start 0xF215 (fun s => s.setReg 2 5)) (·.dt) = some 4 ∧
    after (start 0xF215 (fun s => withCfg { Config.standard with timersInStep := false } (s.setReg 2 5)))
      (·.dt) = some 5 := by decide
theorem test_ldStVx :
    after (start 0xF218 (fun s => s.setReg 2 1)) (fun t => (t.st, t.soundActive)) = some (0, false) ∧
    after (start 0xF218 (fun s => s.setReg 2 2)) (fun t => (t.st, t.soundActive)) = some (1, true) := by decide

/-! ## Commands, reset and the interface (L2-6, L2-7, L2-8) -/

theorem test_reset_memory :
    State.reset.readByte 0x000 = 0xF0 ∧ State.reset.readByte 0x04B = 0xF0 ∧ State.reset.readByte 0x04F = 0x80 ∧
    State.reset.readByte 0x050 = 0 ∧ State.reset.readByte 0xFFF = 0 := by decide
theorem test_tick_does_not_wrap : (State.reset.tickCommand).dt = 0 := by decide
theorem test_key_down_out_of_range : Command.result (.keyDown 0x10) State.reset = .badKey := by decide
theorem test_key_down_up :
    ((State.reset.keyDown 3).keyDown 3).keys = 0x0008 ∧ ((State.reset.keyDown 3).keyUp 7).keys = 0x0008 := by
  decide
theorem test_load : (State.reset.load [0x12, 0x00]).readByte 0x200 = 0x12 := by decide
/-- Writing the reset value removes the entry: equal memories are equal data. -/
theorem test_memory_canonical :
    Memory.write Config.standardFont (Memory.write Config.standardFont [] 0x300 5) 0x300 0 = [] ∧
    Memory.write Config.standardFont [] 0x000 0xF0 = [] := by decide
/-- The fetch check comes before the stack check (rule R317). -/
theorem test_fetch_bounds_first :
    after ((State.reset.setPc 0xFFF).setStack State.reset.stack 16) (fun t => (t.err, t.pc)) =
      some (.fetchBounds, 0xFFF) := by decide
theorem test_unrecognized_ticks :
    after (start 0x0000 (fun s => s.setDt 3)) (fun t => (t.pc, t.dt)) = some (0x202, 2) := by decide

/-- The status table of L2-1, rows 01E0 and 8019, and of L2-7, row 1. -/
theorem test_status :
    (start 0x01E0).stepResult = .ok ∧ (start 0x8019).stepResult = .unrecognized ∧
    (start 0x00EE).stepResult = .fatal .stackUnderflow ∧ (start 0x1234).stepResult = .ok := by decide

/-! ## Witnesses: concrete values that meet the hypotheses of each statement -/

/-- A running state with memory listed. -/
theorem start_inv : (start 0x6A3C).Inv where
  cfg_wf := by decide
  mem_wf := by decide
  fb_wf := by decide
  halted_iff := by decide
  pc_le := by decide
  stack_le := by decide

theorem witness_InvariantHoldsAtReset :
    Config.standard.wf ∧ Config.wf { Config.standard with screenW := 1, screenH := 1 } := by decide
theorem witness_StepKeepsInvariant : (start 0x6A3C).Inv ∧ ∃ t, step (start 0x6A3C) = .next t :=
  ⟨start_inv, _, rfl⟩
theorem witness_CommandRunsKeepInvariant :
    (start 0x6A3C).Inv ∧ ∃ t, runCommands [.load [0x00, 0xEE], .keyDown 5, .tick, .step, .reset]
      (start 0x6A3C) = .next t := ⟨start_inv, _, rfl⟩
theorem witness_DecodeInvertsEncode :
    (Instr.shlE 15 0).wellFormed Config.standard = true ∧ (Instr.drw 15 0 15).wellFormed Config.standard = true := by
  decide
theorem witness_FetchIsBigEndianAndBounded :
    (State.reset.setPc 0xFFE).pc.toNat ≤ 0xFFE ∧ 0xFFE < (State.reset.setPc 0xFFF).pc.toNat ∧
    (State.reset.setPc 0xFFF).halted = false := by decide
theorem witness_StepRunsTheDecodedInstruction :
    (start 0x00E0 (·.setPc 0xFFE)).halted = false ∧ (start 0x00E0 (·.setPc 0xFFE)).pc.toNat ≤ 0xFFE ∧
    decodeWord (start 0x00E0 (·.setPc 0xFFE)).cfg
      (wordOfBytes ((start 0x00E0 (·.setPc 0xFFE)).readByte 0xFFE) ((start 0x00E0 (·.setPc 0xFFE)).readByte 0xFFF)) =
      .ok .cls ∧
    Instr.cls.wellFormed (start 0x00E0 (·.setPc 0xFFE)).cfg = true ∧
    [(start 0x00E0 (·.setPc 0xFFE)).readByte 0xFFE, (start 0x00E0 (·.setPc 0xFFE)).readByte 0xFFF] =
      encodeBytes .cls := by decide
/-- The three clauses on the status: an instruction that halts, one that completes, and LD VX, K. -/
theorem witness_StepRunsTheDecodedInstruction_status :
    (∃ t, exec .ret (start 0x00EE) = .next t ∧ t.halted = true) ∧
    (∃ t, exec (.jp 0x234) (start 0x1234) = .next t ∧ t.halted = false) ∧
    (∀ x, Instr.jp 0x234 ≠ .ldVxK x) ∧ (start 0xF30A).keys = 0 ∧ (start 0xF30A (·.setKeys 0x8000)).keys ≠ 0 :=
  ⟨⟨_, rfl, rfl⟩, ⟨_, rfl, rfl⟩, nofun, rfl, by decide⟩
theorem witness_UnrecognizedStepOnlyAdvances :
    State.reset.halted = false ∧ State.reset.fetch = some 0 ∧ UnrecognizedWord State.reset.cfg (0 : Word).toNat :=
  ⟨rfl, by decide, .inl (by decide)⟩
theorem witness_HaltedMachineStandsStill : (State.reset.halt .memBounds).halted = true := by decide
theorem witness_FatalStepChangesOnlyHaltState :
    (start 0x00EE).halted = false ∧ ∃ t, step (start 0x00EE) = .next t ∧ t.halted = true := ⟨rfl, _, rfl, rfl⟩
/-- Each cause at its boundary: pc = 0xFFF; SP = 16; SP = 0; I + 2 = 0x1000; I + N - 1 = 0x1000. -/
theorem witness_StepHaltsExactlyForTheseCauses :
    (State.reset.setPc 0xFFF).FatalCause .fetchBounds ∧
    (start 0x2300 (fun s => s.setStack s.stack 16)).FatalCause .stackOverflow ∧
    (start 0x00EE).FatalCause .stackUnderflow ∧
    (start 0xF033 (·.setI 0xFFE)).FatalCause .memBounds ∧
    (start 0xD012 (·.setI 0xFFF)).FatalCause .memBounds ∧
    (start 0x00EE).halted = false :=
  ⟨by unfold State.FatalCause; decide, ⟨⟨0x300, 0x2300, by decide, by decide⟩, rfl⟩,
    ⟨⟨0x00EE, by decide, by decide⟩, rfl⟩,
    ⟨.ldB 0, 2, ⟨0xF033, by decide, by decide⟩, rfl, by decide⟩,
    ⟨.drw 0 1 2, 1, ⟨0xD012, by decide, by decide⟩, rfl, by decide⟩, rfl⟩
theorem witness_RetPopsTheReturnAddress :
    State.reset.sp = 0 ∧ 0 < (State.reset.setStack State.reset.stack 1).sp.val ∧
    0 < (State.reset.setStack State.reset.stack 16).sp.val := by decide
theorem witness_CallPushesTheNextAddress :
    (State.reset.setStack State.reset.stack 16).sp = 16 ∧ State.reset.sp.val < 16 ∧
    (State.reset.setStack State.reset.stack 15).sp.val < 16 := by decide
theorem witness_CallThenRetReturnsAfterTheCall :
    (State.reset.setStack State.reset.stack 15).sp.val < 16 := by decide
theorem witness_FlagOrdersAgreeAwayFromVF :
    (1 : RegIdx) ≠ vf ∧ (2 : RegIdx) ≠ vf ∧
    Instr.addR 1 2 ∈ [Instr.addR 1 2, .sub 1 2, .shr 1 2, .subn 1 2, .shl 1 2, .shlE 1 2] ∧
    (∃ t, exec (.addR 1 2) State.reset = .next t) ∧
    ∃ u, exec (.addR 1 2) { State.reset with cfg := order .sequential } = .next u :=
  ⟨by decide, by decide, by decide, ⟨_, rfl⟩, ⟨_, rfl⟩⟩
theorem witness_BcdStoresThreeDigits :
    (State.reset.setI 0xFFD).indexAddr + 2 ≤ 0xFFF ∧ 0xFFF < (State.reset.setI 0xFFE).indexAddr + 2 := by decide
theorem witness_StoreWritesRegistersFromI :
    (State.reset.setI 0xFF0).indexAddr + (15 : RegIdx).val ≤ 0xFFF ∧
    0xFFF < (State.reset.setI 0xFF1).indexAddr + (15 : RegIdx).val ∧ (15 : RegIdx) ≤ 15 := by decide
theorem witness_LoadReadsRegistersFromI :
    (State.reset.setI 0xFFF).indexAddr + (0 : RegIdx).val ≤ 0xFFF ∧
    0xFFF < (State.reset.setI 0x1000).indexAddr + (0 : RegIdx).val ∧
    (0 : RegIdx) ≤ 0 ∧ (0 : RegIdx) < 1 := by decide
theorem witness_StoreThenLoadRestoresRegisters :
    (State.reset.setI 0xFF0).i.toNat + (15 : RegIdx).val ≤ 0xFFF ∧
    ∃ t, exec (.ldStore 15) (State.reset.setI 0xFF0) = .next t := ⟨by decide, _, rfl⟩
theorem witness_ByteReadAfterWrite :
    (∃ t, State.reset.memWrite 0xFFF 7 = some t) ∧ State.reset.memWrite 0x1000 7 = none ∧
    Memory.wf State.reset.cfg.font State.reset.mem := ⟨⟨_, rfl⟩, rfl, by decide⟩
theorem witness_FetchSeesStoredBytes :
    (State.reset.setI 0xFFD).indexAddr + (bcdDigits ((State.reset.setI 0xFFD).reg 0)).length ≤ 0x1000 ∧
    (∃ t, exec (.ldB 0) (State.reset.setI 0xFFD) = .next t) ∧
    (State.reset.setI 0xFF0).indexAddr + ((State.reset.setI 0xFF0).regsUpTo 15).length ≤ 0x1000 ∧
    (∃ t, exec (.ldStore 15) (State.reset.setI 0xFF0) = .next t) ∧ (0xFFE : Word).toNat ≤ 0xFFE :=
  ⟨by decide, ⟨_, rfl⟩, by decide, ⟨_, rfl⟩, by decide⟩
theorem witness_DrwXorsTheSprite :
    State.reset.cfg.wf ∧ Framebuffer.wf State.reset.cfg.screenW State.reset.cfg.screenH State.reset.fb ∧
    (State.reset.setI 0xFFF).indexAddr + (1 : Fin 16).val - 1 ≤ 0xFFF ∧
    0xFFF < (State.reset.setI 0xFFF).indexAddr + (2 : Fin 16).val - 1 ∧ 0 < (2 : Fin 16).val := by decide
/-- A draw that collides and one that does not: glyph 0 at (0,0), with pixel (0,0) set and clear. -/
theorem witness_DrwXorsTheSprite_collision :
    Collides (State.reset.setFb (State.reset.fb.toggle 0 0))
      ((State.reset.setFb (State.reset.fb.toggle 0 0)).drawnPixels 0 1 1) ∧
    ¬ Collides State.reset (State.reset.drawnPixels 0 1 1) := by
  unfold Collides
  decide
theorem witness_DrawingTwiceRestoresTheScreen :
    State.reset.cfg.wf ∧ Framebuffer.wf State.reset.cfg.screenW State.reset.cfg.screenH State.reset.fb ∧
    (1 : RegIdx) ≠ vf ∧ (2 : RegIdx) ≠ vf ∧ State.reset.indexAddr + (15 : Fin 16).val - 1 ≤ 0xFFF ∧
    8 ≤ State.reset.cfg.screenW ∧ (15 : Fin 16).val ≤ State.reset.cfg.screenH := by decide
theorem witness_DrawingTwiceRestoresTheScreen_nodup : (State.reset.drawnPixels 1 2 5).Nodup := by decide
theorem witness_WaitForKey :
    (start 0xF30A).keys = 0 ∧ (start 0xF30A).halted = false ∧ (start 0xF30A).Fetches (.ldVxK 3) ∧
    (start 0xF30A (·.setKeys 0x0204)).keys ≠ 0 ∧ (start 0xF30A (·.setKeys 0x0204)).halted = false ∧
    (start 0xF30A (·.setKeys 0x0204)).Fetches (.ldVxK 3) :=
  ⟨rfl, rfl, ⟨0xF30A, by decide, by decide⟩, by decide, rfl, ⟨0xF30A, by decide, by decide⟩⟩
theorem witness_TimerStepsTickAfterTheInstruction :
    (start 0xF215).halted = false ∧ (start 0xF215).cfg.timersInStep = true ∧ (start 0xF215).Fetches (.ldDtVx 2) ∧
    (start 0xF218).Fetches (.ldStVx 2) ∧ (start 0xF207).Fetches (.ldVxDt 2) :=
  ⟨rfl, rfl, ⟨0xF215, by decide, by decide⟩, ⟨0xF218, by decide, by decide⟩, ⟨0xF207, by decide, by decide⟩⟩
theorem witness_TickCountsBothTimersDown :
    (start 0x6A3C).halted = false ∧ (start 0x6A3C).Fetches (.ldI8 10 0x3C) ∧
    (∃ t, exec (.ldI8 10 0x3C) (start 0x6A3C) = .next t ∧ t.halted = false) ∧
    (start 0x8019).fetch = some 0x8019 ∧ UnrecognizedWord (start 0x8019).cfg (0x8019 : Word).toNat :=
  ⟨rfl, ⟨0x6A3C, by decide, by decide⟩, ⟨_, rfl, rfl⟩, by decide, .inr (.inl (by decide))⟩
theorem witness_OnlyListedRegistersAreWritten : ∃ t, exec (.ldLoad 4) State.reset = .next t := ⟨_, rfl⟩
theorem witness_OnlyThreeInstructionsWriteI :
    (∃ t, exec (.ldStore 15) (State.reset.setI 0x300) = .next t) ∧ (∀ nnn, Instr.ldStore 15 ≠ .ldIdx nnn) ∧
    (∀ x, Instr.ldStore 15 ≠ .addI x) ∧ ∀ x, Instr.ldStore 15 ≠ .ldF x :=
  ⟨⟨_, rfl⟩, nofun, nofun, nofun⟩
theorem witness_OnlyCallAndRetTouchTheStack :
    (∃ t, exec .ret (State.reset.setStack State.reset.stack 1) = .next t) ∧ (∀ nnn, Instr.ret ≠ .call nnn) ∧
    (∃ t, exec .cls State.reset = .next t) ∧ (∀ nnn, Instr.cls ≠ .call nnn) ∧ Instr.cls ≠ .ret :=
  ⟨⟨_, rfl⟩, nofun, ⟨_, rfl⟩, nofun, nofun⟩
theorem witness_OnlyClsDrwResetChangeTheScreen :
    (∃ t, exec (.jp 0x234) State.reset = .next t) ∧ Instr.jp 0x234 ≠ .cls ∧
    (∃ t, Command.effect .step (start 0xD015) = .next t ∧ t.pixel 0 0 ≠ (start 0xD015).pixel 0 0) ∧
    Command.step ≠ .reset :=
  ⟨⟨_, rfl⟩, nofun, ⟨_, rfl, by decide⟩, nofun⟩
theorem witness_OnlyStoresChangeMemory :
    (∃ t, exec (.jp 0x234) State.reset = .next t) ∧
    (∃ t, Command.effect .step (start 0xF033 (fun s => (s.setReg 0 157).setI 0x300)) = .next t ∧
      t.readByte 0x300 ≠ (start 0xF033 (fun s => (s.setReg 0 157).setI 0x300)).readByte 0x300) ∧
    Command.step ≠ .reset ∧ ∀ bs, Command.step ≠ .load bs :=
  ⟨⟨_, rfl⟩, ⟨_, rfl, by decide⟩, nofun, nofun⟩
theorem witness_OnlyKeyCommandsChangeKeys :
    (∃ t, exec (.skp 1) State.reset = .next t) ∧
    ∃ t, Command.effect (.keyDown 15) State.reset = .next t ∧ t.keys ≠ State.reset.keys :=
  ⟨⟨_, rfl⟩, _, rfl, by decide⟩
theorem witness_OnlyResetLeavesTheHaltedState :
    (∃ t, Command.effect .tick (State.reset.halt .memBounds) = .next t) ∧
    (State.reset.halt .memBounds).halted = true ∧ Command.tick ≠ .reset ∧ (start 0x00EE).halted = false ∧
    ∃ t, Command.effect .step (start 0x00EE) = .next t ∧ t.halted = true :=
  ⟨⟨_, rfl⟩, rfl, nofun, rfl, _, rfl, rfl⟩
theorem witness_PcGoesWhereTheTableSays :
    State.reset.halted = false ∧ (∃ t, exec (.se 0 0) State.reset = .next t ∧ t.halted = false) ∧
    (∃ t, exec .ret (State.reset.setStack State.reset.stack 1) = .next t ∧ t.halted = false) ∧
    State.reset.fetch = some 0 ∧ UnrecognizedWord State.reset.cfg (0 : Word).toNat ∧
    ∃ t, step State.reset = .next t :=
  ⟨rfl, ⟨_, rfl, rfl⟩, ⟨_, rfl, rfl⟩, by decide, .inl (by decide), _, rfl⟩
theorem witness_NoProgramSeesTheSoundTimer :
    ∃ t, Host.Core.run Sys2Proof.core 2 (start 0xF218 (·.setReg 2 2)) = .next t := ⟨_, rfl⟩
/-- Two stacks that differ in the dead entry 1 only, under a RET. -/
theorem witness_NoProgramSeesDeadStackEntries :
    (∀ (j : Nat) (h : j < 16), j < (start 0x00EE (fun s => s.setStack s.stack 1)).sp.val →
      ((start 0x00EE (fun s => s.setStack s.stack 1)).stack.set 1 0x300)[j] =
        (start 0x00EE (fun s => s.setStack s.stack 1)).stack[j]) ∧
    ∃ t, Host.Core.run Sys2Proof.core 1 (start 0x00EE (fun s => s.setStack s.stack 1)) = .next t :=
  ⟨by decide, _, rfl⟩
theorem witness_LoadCopiesOrRefuses :
    (List.replicate 3584 (0x11 : Byte)).length ≤ 3584 ∧ 3584 < (List.replicate 3585 (0x11 : Byte)).length := by
  simp only [List.length_replicate]
  decide
theorem witness_KeyCommandsSetOneKey : (15 : Nat) ≤ 0xF ∧ 0xF < (16 : Nat) := by decide

end Sys2Proof.Tests
end

/-! Proofs: the invariant (O2, O3). It holds at reset; every operation of Machine/Ops.lean that an executor
is made of keeps it; so every executor of a pc that was fetched keeps it, and so does every step. -/

namespace Sys2Proof.Machine

/-! ## Words as numbers -/

/-- A 16-bit sum is at most the sum of the numbers. -/
theorem word_add_toNat_le (p d : Word) : (p + d).toNat ≤ p.toNat + d.toNat := by
  rw [BitVec.toNat_add]
  exact Nat.mod_le _ _

@[simp] theorem addrOperand_toNat (nnn : Addr) : (addrOperand nnn).toNat = nnn.toNat :=
  BitVec.toNat_setWidth_of_le (by decide)

@[simp] theorem State.regWord_toNat (s : State) (x : RegIdx) : (s.regWord x).toNat = (s.reg x).toNat :=
  BitVec.toNat_setWidth_of_le (by decide)

/-- A jump to NNN leaves pc inside memory (rule R141, rule R142). -/
theorem addrOperand_toNat_le (nnn : Addr) : (addrOperand nnn).toNat ≤ 0xFFF := by
  rw [addrOperand_toNat]
  exact Nat.le_of_lt_succ nnn.isLt

/-! ## What the shared operations leave of pc -/

@[simp] theorem State.flagOp_pc (s : State) (fl res : Byte → Byte → Byte) (x y : RegIdx) :
    (s.flagOp fl res x y).pc = s.pc := by
  rw [State.flagOp_eq]

@[simp] theorem State.setRegsFrom_pc (s : State) (k : Nat) (bs : List Byte) :
    (s.setRegsFrom k bs).pc = s.pc := by
  rw [State.setRegsFrom_eq]

theorem State.writeBytes_pc {s t : State} {a : Nat} {bs : List Byte} (h : s.writeBytes a bs = some t) :
    t.pc = s.pc := by
  obtain ⟨-, ht, -⟩ := State.writeBytes_some h
  rw [ht, State.setMem_pc]

/-! ## Reset -/

/-- RESET with legal parameters meets the invariant, whatever the oracles have given (rule R57). -/
theorem State.resetWith_inv {cfg : Config} (h : cfg.wf) (rndDraws keyPicks : Nat) :
    (State.resetWith cfg rndDraws keyPicks).Inv where
  cfg_wf := h
  mem_wf := Memory.wf_nil cfg.font
  fb_wf := Framebuffer.wf_clear cfg.screenW cfg.screenH
  halted_iff := by simp [State.resetWith]
  pc_le := by simp [State.resetWith]
  stack_le k hk := by simp [State.resetWith]

/-! ## Each operation keeps the invariant -/

namespace State.Inv

variable {s t : State}

/-- The invariant says nothing of the register file. -/
theorem withRegs (h : s.Inv) (v : Vector Byte 16) : State.Inv { s with v := v } := { h with }

theorem setReg (h : s.Inv) (x : RegIdx) (b : Byte) : (s.setReg x b).Inv := h.withRegs _

theorem flagOp (h : s.Inv) (fl res : Byte → Byte → Byte) (x y : RegIdx) :
    (s.flagOp fl res x y).Inv := by
  rw [State.flagOp_eq]
  exact h.withRegs _

theorem setRegsFrom (h : s.Inv) (k : Nat) (bs : List Byte) : (s.setRegsFrom k bs).Inv := by
  rw [State.setRegsFrom_eq]
  exact h.withRegs _

theorem setI (h : s.Inv) (w : Word) : (s.setI w).Inv := { h with }

theorem setDt (h : s.Inv) (b : Byte) : (s.setDt b).Inv := { h with }

theorem setSt (h : s.Inv) (b : Byte) : (s.setSt b).Inv := { h with }

theorem tick (h : s.Inv) : s.tick.Inv := (h.setDt _).setSt _

theorem countDraw (h : s.Inv) : s.countDraw.Inv := { h with }

theorem countPick (h : s.Inv) : s.countPick.Inv := { h with }

theorem setMem (h : s.Inv) {m : Memory} (hm : Memory.wf s.cfg.font m) : (s.setMem m).Inv :=
  { h with mem_wf := hm }

theorem setFb (h : s.Inv) {fb : Framebuffer} (hfb : Framebuffer.wf s.cfg.screenW s.cfg.screenH fb) :
    (s.setFb fb).Inv :=
  { h with fb_wf := hfb }

theorem setPc (h : s.Inv) {w : Word} (hw : w.toNat ≤ 0x10FE) : (s.setPc w).Inv :=
  { h with pc_le := hw }

theorem setStack (h : s.Inv) {stack : Vector Word 16} (sp : Fin 17)
    (hs : ∀ (k : Nat) (hk : k < 16), (stack[k]).toNat ≤ 0x1000) : (s.setStack stack sp).Inv :=
  { h with stack_le := hs }

/-- HALTED and ERR are set together (rule R44). -/
theorem halt (h : s.Inv) {code : ErrCode} (hc : code ≠ .none) : (s.halt code).Inv :=
  { h with halted_iff := iff_of_true rfl hc }

/-- After a fetch pc is at most 0xFFE, so it may go on by two (rule R109). -/
theorem advance (h : s.Inv) (hpc : s.pc.toNat ≤ 0xFFE) : s.advance.Inv := by
  have hadd : (s.pc + 2).toNat ≤ s.pc.toNat + 2 := word_add_toNat_le s.pc 2
  exact h.setPc (by omega)

/-- After a fetch pc may go on by four (rule R109). -/
theorem skipIf (h : s.Inv) (hpc : s.pc.toNat ≤ 0xFFE) (c : Bool) : (s.skipIf c).Inv := by
  cases c with
  | false => exact h.advance hpc
  | true =>
    have hadd : (s.pc + 4).toNat ≤ s.pc.toNat + 4 := word_add_toNat_le s.pc 4
    exact h.setPc (w := s.pc + 4) (by omega)

/-- A write of bytes keeps the canonical form and changes memory only (rule R75). -/
theorem writeBytes (h : s.Inv) {a : Nat} {bs : List Byte} (hw : s.writeBytes a bs = some t) : t.Inv := by
  obtain ⟨-, ht, -⟩ := State.writeBytes_some hw
  have hcfg : t.cfg = s.cfg := by rw [ht, State.setMem_cfg]
  have hmem : Memory.wf s.cfg.font t.mem := hcfg ▸ State.writeBytes_wf hw h.mem_wf
  rw [ht]
  exact h.setMem hmem

/-- A push of a return address up to 0x1000 keeps the bound on stack entries (rule R39). -/
theorem pushReturn (h : s.Inv) {ra : Word} (hra : ra.toNat ≤ 0x1000) (hp : s.pushReturn ra = some t) :
    t.Inv := by
  unfold State.pushReturn at hp
  split at hp
  · cases hp
    refine h.setStack _ fun k hk => ?_
    rw [Vector.getElem_set]
    split
    · exact hra
    · exact h.stack_le k hk
  · cases hp

/-- A pop answers a stack entry, so an address up to 0x1000, and leaves every entry (rule R39). -/
theorem popReturn (h : s.Inv) {ra : Word} (hp : s.popReturn = some (ra, t)) :
    ra.toNat ≤ 0x1000 ∧ t.Inv := by
  unfold State.popReturn at hp
  split at hp
  · cases hp
  · cases hp
    exact ⟨h.stack_le _ _, h.setStack _ h.stack_le⟩

/-- A draw flips pixels, which keeps the grid's size (rule R262). -/
theorem drawSprite_wf (h : s.Inv) (x y : RegIdx) (rows : List Byte) :
    Framebuffer.wf s.cfg.screenW s.cfg.screenH (s.drawSprite x y rows).1 := by
  unfold State.drawSprite
  rw [Framebuffer.drawRows_eq_hits]
  exact Framebuffer.wf_hits _ _ h.fb_wf

/-- The tick at the end of a step changes only the timers (rule R287). -/
theorem endOfStep (h : s.Inv) : s.endOfStep.Inv := by
  obtain ⟨-, hs⟩ | ⟨-, -, hs⟩ | ⟨-, -, hs⟩ := s.endOfStep_cases <;> rw [hs]
  · exact h
  · exact h
  · exact h.tick

end State.Inv

/-! ## Executors -/

/-- The outcome is a next state that meets the invariant. -/
def NextMeetsInv (o : Outcome) : Prop := ∃ t, o = .next t ∧ t.Inv

section Executors

variable {s : State}

theorem raiseFatal_meetsInv (h : s.Inv) {code : ErrCode} (hc : code ≠ .none) :
    NextMeetsInv (raiseFatal code s) := ⟨_, rfl, h.halt hc⟩

theorem execRet_meetsInv (h : s.Inv) : NextMeetsInv (execRet s) := by
  unfold execRet
  split
  · exact raiseFatal_meetsInv h (by decide)
  · next ra t hp =>
    obtain ⟨hra, ht⟩ := h.popReturn hp
    exact ⟨_, rfl, ht.setPc (by omega)⟩

/-- The address pushed is that after the call, at most 0x1000 (rule R142). -/
theorem execCall_meetsInv (h : s.Inv) (hpc : s.pc.toNat ≤ 0xFFE) (nnn : Addr) :
    NextMeetsInv (execCall nnn s) := by
  have hra : (s.pc + 2).toNat ≤ s.pc.toNat + 2 := word_add_toNat_le s.pc 2
  have htarget := addrOperand_toNat_le nnn
  unfold execCall
  split
  · exact raiseFatal_meetsInv h (by decide)
  · next t hp => exact ⟨_, rfl, (h.pushReturn (by omega) hp).setPc (by omega)⟩

theorem execJp_meetsInv (h : s.Inv) (nnn : Addr) : NextMeetsInv (execJp nnn s) := by
  have htarget := addrOperand_toNat_le nnn
  exact ⟨_, rfl, h.setPc (by omega)⟩

/-- The furthest jump is to 0xFFF + 0xFF, the bound on pc (rule R147, rule R37). -/
theorem execJpV0_meetsInv (h : s.Inv) (nnn : Addr) : NextMeetsInv (execJpV0 nnn s) := by
  have hadd := word_add_toNat_le (addrOperand nnn) (s.regWord 0)
  have htarget := addrOperand_toNat_le nnn
  have hv0 : (s.regWord 0).toNat < 256 := by
    rw [State.regWord_toNat]
    exact (s.reg 0).isLt
  exact ⟨_, rfl, h.setPc (by omega)⟩

theorem execDrw_meetsInv (h : s.Inv) (hpc : s.pc.toNat ≤ 0xFFE) (x y : RegIdx) (n : Fin 16) :
    NextMeetsInv (execDrw x y n s) := by
  unfold execDrw
  split
  · exact raiseFatal_meetsInv h (by decide)
  · exact ⟨_, rfl, ((h.setFb (h.drawSprite_wf x y _)).setReg vf _).advance hpc⟩

theorem execLdB_meetsInv (h : s.Inv) (hpc : s.pc.toNat ≤ 0xFFE) (x : RegIdx) :
    NextMeetsInv (execLdB x s) := by
  unfold execLdB
  split
  · exact raiseFatal_meetsInv h (by decide)
  · next t hw => exact ⟨_, rfl, (h.writeBytes hw).advance (State.writeBytes_pc hw ▸ hpc)⟩

theorem execLdStore_meetsInv (h : s.Inv) (hpc : s.pc.toNat ≤ 0xFFE) (x : RegIdx) :
    NextMeetsInv (execLdStore x s) := by
  unfold execLdStore
  split
  · exact raiseFatal_meetsInv h (by decide)
  · next t hw => exact ⟨_, rfl, (h.writeBytes hw).advance (State.writeBytes_pc hw ▸ hpc)⟩

theorem execLdLoad_meetsInv (h : s.Inv) (hpc : s.pc.toNat ≤ 0xFFE) (x : RegIdx) :
    NextMeetsInv (execLdLoad x s) := by
  unfold execLdLoad
  split
  · exact raiseFatal_meetsInv h (by decide)
  · next bs _ => exact ⟨_, rfl, (h.setRegsFrom 0 bs).advance (by simpa using hpc)⟩

/-- FX0A waits at its own pc, or takes a key and goes on (rule R283). -/
theorem execLdVxK_meetsInv (h : s.Inv) (hpc : s.pc.toNat ≤ 0xFFE) (x : RegIdx) :
    NextMeetsInv (execLdVxK x s) := by
  unfold execLdVxK
  split
  · exact ⟨_, rfl, h⟩
  · exact ⟨_, rfl, ((h.setReg x s.chosenKey).countPick).advance hpc⟩

/-- An executor that writes one register and goes on. -/
theorem setReg_advance_meetsInv (h : s.Inv) (hpc : s.pc.toNat ≤ 0xFFE) (x : RegIdx) (b : Byte) :
    NextMeetsInv (.next (s.setReg x b).advance) := ⟨_, rfl, (h.setReg x b).advance hpc⟩

/-- An executor that writes a register and the flag and goes on (rule R180). -/
theorem flagOp_advance_meetsInv (h : s.Inv) (hpc : s.pc.toNat ≤ 0xFFE) (fl res : Byte → Byte → Byte)
    (x y : RegIdx) : NextMeetsInv (.next (s.flagOp fl res x y).advance) :=
  ⟨_, rfl, (h.flagOp fl res x y).advance (by simpa using hpc)⟩

/-- An executor that skips or does not. -/
theorem skipIf_meetsInv (h : s.Inv) (hpc : s.pc.toNat ≤ 0xFFE) (c : Bool) :
    NextMeetsInv (.next (s.skipIf c)) := ⟨_, rfl, h.skipIf hpc c⟩

/-- Every executor, run at a pc that was fetched, keeps the invariant. -/
theorem exec_meetsInv (h : s.Inv) (hpc : s.pc.toNat ≤ 0xFFE) (i : Instr) : NextMeetsInv (exec i s) := by
  cases i with
  | cls => exact ⟨_, rfl, (h.setFb (Framebuffer.wf_clear _ _)).advance hpc⟩
  | ret => exact execRet_meetsInv h
  | jp nnn => exact execJp_meetsInv h nnn
  | call nnn => exact execCall_meetsInv h hpc nnn
  | jpV0 nnn => exact execJpV0_meetsInv h nnn
  | se | sne | seR | sneR | skp | sknp => exact skipIf_meetsInv h hpc _
  | ldI8 | addI8 | ldR | orR | andR | xorR | ldVxDt => exact setReg_advance_meetsInv h hpc _ _
  | addR | sub | shr | subn | shl | shlE => exact flagOp_advance_meetsInv h hpc _ _ _ _
  | rnd x nn => exact ⟨_, rfl, ((h.setReg x _).countDraw).advance hpc⟩
  | drw x y n => exact execDrw_meetsInv h hpc x y n
  | ldVxK x => exact execLdVxK_meetsInv h hpc x
  | ldDtVx x => exact ⟨_, rfl, (h.setDt _).advance hpc⟩
  | ldStVx x => exact ⟨_, rfl, (h.setSt _).advance hpc⟩
  | ldIdx | addI | ldF => exact ⟨_, rfl, (h.setI _).advance hpc⟩
  | ldB x => exact execLdB_meetsInv h hpc x
  | ldStore x => exact execLdStore_meetsInv h hpc x
  | ldLoad x => exact execLdLoad_meetsInv h hpc x

end Executors

/-! ## Steps -/

/-- A pc that was fetched is at most 0xFFE (rule R106). -/
theorem State.pc_le_of_fetch {s : State} {op : Word} (h : s.fetch = some op) : s.pc.toNat ≤ 0xFFE := by
  by_contra hpc
  rw [(State.fetch_eq_none s).mpr (by omega)] at h
  cases h

/-- One step from a state that meets the invariant answers a state that meets it. -/
theorem step_meetsInv {s : State} (h : s.Inv) : NextMeetsInv (step s) := by
  obtain ⟨-, hs⟩ | ⟨-, -, hs⟩ | ⟨op, u, -, hf, -, hs⟩ | ⟨op, i, -, hf, -, hs⟩ := step_cases s <;> rw [hs]
  · exact ⟨_, rfl, h⟩
  · exact ⟨_, rfl, h.halt (by decide)⟩
  · exact ⟨_, rfl, (h.advance (State.pc_le_of_fetch hf)).endOfStep⟩
  · obtain ⟨t, ht, hinv⟩ := exec_meetsInv h (State.pc_le_of_fetch hf) i
    rw [ht]
    exact ⟨_, rfl, hinv.endOfStep⟩

/-- Settles O3: `step_meetsInv` gives the one state that the step answers. -/
theorem stepKeepsInvariant : Obligations.StepKeepsInvariant := by
  intro s t h hst
  obtain ⟨u, hu, hinv⟩ := step_meetsInv h
  cases hst.symm.trans hu
  exact hinv

/-- Settles O2: the default parameters are legal, so State.reset is one case of `State.resetWith_inv`. -/
theorem invariantHoldsAtReset : Obligations.InvariantHoldsAtReset :=
  ⟨fun _ n k h => State.resetWith_inv h n k, State.resetWith_inv (by decide) 0 0⟩

end Sys2Proof.Machine

/-! Proofs: the footprint of a step (O48, O49, O50, O53). Every executor answers a next state and writes at
most the parts of the state listed for it, pc aside; what a statement says is left alone is then read off
the list. -/

namespace Sys2Proof.Machine

/-! ## Parts of the state -/

/-- The parts of the state that an instruction may leave alone; pc is none of them, since every instruction
may write it (rule R109). -/
inductive Part where
  | reg (r : RegIdx)
  | index
  | stack
  | depth
  | delay
  | sound
  | memory
  | screen
  | keys
  /-- HALTED and ERR, which are written together (rule R44). -/
  | halt
  | params
  | draws
  | picks

/-- Two states hold the same in a part. -/
def Part.Same (s t : State) : Part → Prop
  | .reg r => t.reg r = s.reg r
  | .index => t.i = s.i
  | .stack => t.stack = s.stack
  | .depth => t.sp = s.sp
  | .delay => t.dt = s.dt
  | .sound => t.st = s.st
  | .memory => t.mem = s.mem
  | .screen => t.fb = s.fb
  | .keys => t.keys = s.keys
  | .halt => t.halted = s.halted ∧ t.err = s.err
  | .params => t.cfg = s.cfg
  | .draws => t.rndDraws = s.rndDraws
  | .picks => t.keyPicks = s.keyPicks

/-- Every part but those listed holds what it held. -/
def ChangesAtMost (ps : List Part) (s t : State) : Prop := ∀ p, p ∉ ps → p.Same s t

/-- The parts an instruction may write beside the general registers and pc. -/
def writtenParts : Instr → List Part
  | .cls => [.screen]
  | .drw _ _ _ => [.screen, .halt]
  | .ret => [.depth, .halt]
  | .call _ => [.stack, .depth, .halt]
  | .ldIdx _ | .addI _ | .ldF _ => [.index]
  | .rnd _ _ => [.draws]
  | .ldVxK _ => [.picks]
  | .ldDtVx _ => [.delay]
  | .ldStVx _ => [.sound]
  | .ldB _ | .ldStore _ => [.memory, .halt]
  | .ldLoad _ => [.halt]
  | .jp _ | .se _ _ | .sne _ _ | .seR _ _ | .ldI8 _ _ | .addI8 _ _ | .ldR _ _ | .orR _ _ | .andR _ _
  | .xorR _ _ | .addR _ _ | .sub _ _ | .shr _ _ | .subn _ _ | .shl _ _ | .shlE _ _ | .sneR _ _
  | .jpV0 _ | .skp _ | .sknp _ | .ldVxDt _ => []

/-- What an instruction may write: the registers rule R33 lists for it, and its other parts. -/
def footprint (i : Instr) : List Part := (writtenRegs i).map .reg ++ writtenParts i

/-! ## Each operation writes its part -/

@[simp] theorem Part.same_refl (p : Part) (s : State) : p.Same s s := by
  cases p <;> simp [Part.Same]

theorem Part.Same.trans {p : Part} {s t u : State} (h : p.Same s t) (h' : p.Same t u) : p.Same s u := by
  cases p with
  | halt => exact ⟨h'.1.trans h.1, h'.2.trans h.2⟩
  | _ => exact Eq.trans h' h

namespace ChangesAtMost

variable {ps : List Part} {s t u : State}

theorem refl (ps : List Part) (s : State) : ChangesAtMost ps s s := fun p _ => p.same_refl s

theorem trans (h : ChangesAtMost ps s t) (h' : ChangesAtMost ps t u) : ChangesAtMost ps s u :=
  fun p hp => (h p hp).trans (h' p hp)

/-- A write of one listed part. -/
theorem write (h : ChangesAtMost ps s t) {q : Part} (hq : q ∈ ps) (hu : ∀ p, p ≠ q → p.Same t u) :
    ChangesAtMost ps s u := h.trans fun p hp => hu p fun e => hp (e ▸ hq)

theorem setPc (h : ChangesAtMost ps s t) (w : Word) : ChangesAtMost ps s (t.setPc w) :=
  h.trans fun p _ => by cases p <;> simp [Part.Same]

theorem advance (h : ChangesAtMost ps s t) : ChangesAtMost ps s t.advance := h.setPc _

theorem setReg (h : ChangesAtMost ps s t) {x : RegIdx} (hx : .reg x ∈ ps) (b : Byte) :
    ChangesAtMost ps s (t.setReg x b) := h.write hx fun p hp => by
  cases p with
  | reg r => simp_all [Part.Same]
  | _ => simp [Part.Same]

theorem setI (h : ChangesAtMost ps s t) (hq : .index ∈ ps) (w : Word) :
    ChangesAtMost ps s (t.setI w) := h.write hq fun p hp => by cases p <;> simp_all [Part.Same]

theorem setDt (h : ChangesAtMost ps s t) (hq : .delay ∈ ps) (b : Byte) :
    ChangesAtMost ps s (t.setDt b) := h.write hq fun p hp => by cases p <;> simp_all [Part.Same]

theorem setSt (h : ChangesAtMost ps s t) (hq : .sound ∈ ps) (b : Byte) :
    ChangesAtMost ps s (t.setSt b) := h.write hq fun p hp => by cases p <;> simp_all [Part.Same]

theorem setMem (h : ChangesAtMost ps s t) (hq : .memory ∈ ps) (m : Memory) :
    ChangesAtMost ps s (t.setMem m) := h.write hq fun p hp => by cases p <;> simp_all [Part.Same]

theorem setFb (h : ChangesAtMost ps s t) (hq : .screen ∈ ps) (fb : Framebuffer) :
    ChangesAtMost ps s (t.setFb fb) := h.write hq fun p hp => by cases p <;> simp_all [Part.Same]

theorem countDraw (h : ChangesAtMost ps s t) (hq : .draws ∈ ps) :
    ChangesAtMost ps s t.countDraw := h.write hq fun p hp => by cases p <;> simp_all [Part.Same]

theorem countPick (h : ChangesAtMost ps s t) (hq : .picks ∈ ps) :
    ChangesAtMost ps s t.countPick := h.write hq fun p hp => by cases p <;> simp_all [Part.Same]

theorem halt (h : ChangesAtMost ps s t) (hq : .halt ∈ ps) (e : ErrCode) :
    ChangesAtMost ps s (t.halt e) := h.write hq fun p hp => by cases p <;> simp_all [Part.Same]

/-- A tick writes both timers (rule R287). -/
theorem tick (h : ChangesAtMost ps s t) (hd : .delay ∈ ps) (hs : .sound ∈ ps) :
    ChangesAtMost ps s t.tick := (h.setDt hd _).setSt hs _

/-- The end of a step writes at most the timers (rule R104). -/
theorem endOfStep (h : ChangesAtMost ps s t) (hd : .delay ∈ ps) (hs : .sound ∈ ps) :
    ChangesAtMost ps s t.endOfStep := by
  obtain ⟨-, ht⟩ | ⟨-, -, ht⟩ | ⟨-, -, ht⟩ := t.endOfStep_cases <;> rw [ht]
  · exact h
  · exact h
  · exact h.tick hd hs

/-- The writes of rule R180, in each of the three orders. -/
theorem flagOp (h : ChangesAtMost ps s t) {x : RegIdx} (hx : .reg x ∈ ps) (hf : .reg vf ∈ ps)
    (fl res : Byte → Byte → Byte) (y : RegIdx) : ChangesAtMost ps s (t.flagOp fl res x y) := by
  unfold State.flagOp
  split
  · exact (h.setReg hf _).setReg hx _
  · exact (h.setReg hx _).setReg hf _
  · exact (h.setReg hf _).setReg hx _

/-- FX65's loop writes the registers from k on, one for each byte (rule R235). -/
theorem setRegsFrom (h : ChangesAtMost ps s t) (k : Nat) (bs : List Byte)
    (hr : ∀ r : RegIdx, r.val < k + bs.length → .reg r ∈ ps) : ChangesAtMost ps s (t.setRegsFrom k bs) := by
  induction bs generalizing t k with
  | nil => exact h
  | cons b bs ih =>
    rw [List.length_cons] at hr
    refine ih ?_ (k + 1) fun r hlt => hr r (by omega)
    split
    · exact h.setReg (hr _ (by simp)) b
    · exact h

/-- A write of bytes writes memory only (rule R75). -/
theorem writeBytes (h : ChangesAtMost ps s t) (hq : .memory ∈ ps) {a : Nat} {bs : List Byte}
    (hw : t.writeBytes a bs = some u) : ChangesAtMost ps s u := by
  obtain ⟨-, hu, -⟩ := State.writeBytes_some hw
  exact hu ▸ h.setMem hq u.mem

/-- A push writes an entry and the depth (rule R39). -/
theorem pushReturn (h : ChangesAtMost ps s t) (hq : .stack ∈ ps) (hd : .depth ∈ ps) {ra : Word}
    (hp : t.pushReturn ra = some u) : ChangesAtMost ps s u := by
  unfold State.pushReturn at hp
  split at hp <;> cases hp
  refine h.trans fun p hps => ?_
  cases p <;> simp_all [Part.Same]

/-- A pop writes the depth only: the entry stays (rule R39). -/
theorem popReturn (h : ChangesAtMost ps s t) (hd : .depth ∈ ps) {ra : Word}
    (hp : t.popReturn = some (ra, u)) : ChangesAtMost ps s u := by
  unfold State.popReturn at hp
  split at hp <;> cases hp
  exact h.write hd fun p hps => by cases p <;> simp_all [Part.Same]

end ChangesAtMost

theorem State.readBytes_length {s : State} {a n : Nat} {bs : List Byte} (h : s.readBytes a n = some bs) :
    bs.length = n := by
  rw [State.readBytes_eq] at h
  split at h <;> cases h
  simp

/-! ## Executors -/

/-- The outcome is a next state in which at most the listed parts and pc are written. -/
def NextChanges (ps : List Part) (s : State) (o : Outcome) : Prop := ∃ t, o = .next t ∧ ChangesAtMost ps s t

section Executors

variable {ps : List Part} {s : State}

theorem raiseFatal_changes (hh : .halt ∈ ps) (code : ErrCode) : NextChanges ps s (raiseFatal code s) :=
  ⟨_, rfl, (ChangesAtMost.refl ps s).halt hh code⟩

theorem skipIf_changes (ps : List Part) (s : State) (c : Bool) : NextChanges ps s (.next (s.skipIf c)) :=
  ⟨_, rfl, (ChangesAtMost.refl ps s).setPc _⟩

theorem setReg_changes {x : RegIdx} (hx : .reg x ∈ ps) (b : Byte) :
    NextChanges ps s (.next (s.setReg x b).advance) :=
  ⟨_, rfl, ((ChangesAtMost.refl ps s).setReg hx b).advance⟩

theorem flagOp_changes {x : RegIdx} (hx : .reg x ∈ ps) (hf : .reg vf ∈ ps) (fl res : Byte → Byte → Byte)
    (y : RegIdx) : NextChanges ps s (.next (s.flagOp fl res x y).advance) :=
  ⟨_, rfl, ((ChangesAtMost.refl ps s).flagOp hx hf fl res y).advance⟩

theorem setI_changes (hq : .index ∈ ps) (w : Word) : NextChanges ps s (.next (s.setI w).advance) :=
  ⟨_, rfl, ((ChangesAtMost.refl ps s).setI hq w).advance⟩

theorem execRet_changes (hd : .depth ∈ ps) (hh : .halt ∈ ps) : NextChanges ps s (execRet s) := by
  unfold execRet
  split
  · exact raiseFatal_changes hh _
  · next hp => exact ⟨_, rfl, ((ChangesAtMost.refl ps s).popReturn hd hp).setPc _⟩

theorem execCall_changes (hq : .stack ∈ ps) (hd : .depth ∈ ps) (hh : .halt ∈ ps) (nnn : Addr) :
    NextChanges ps s (execCall nnn s) := by
  unfold execCall
  split
  · exact raiseFatal_changes hh _
  · next hp => exact ⟨_, rfl, ((ChangesAtMost.refl ps s).pushReturn hq hd hp).setPc _⟩

theorem execDrw_changes (hf : .reg vf ∈ ps) (hq : .screen ∈ ps) (hh : .halt ∈ ps) (x y : RegIdx) (n : Fin 16) :
    NextChanges ps s (execDrw x y n s) := by
  unfold execDrw
  split
  · exact raiseFatal_changes hh _
  · exact ⟨_, rfl, (((ChangesAtMost.refl ps s).setFb hq _).setReg hf _).advance⟩

theorem execLdB_changes (hq : .memory ∈ ps) (hh : .halt ∈ ps) (x : RegIdx) :
    NextChanges ps s (execLdB x s) := by
  unfold execLdB
  split
  · exact raiseFatal_changes hh _
  · next hw => exact ⟨_, rfl, ((ChangesAtMost.refl ps s).writeBytes hq hw).advance⟩

theorem execLdStore_changes (hq : .memory ∈ ps) (hh : .halt ∈ ps) (x : RegIdx) :
    NextChanges ps s (execLdStore x s) := by
  unfold execLdStore
  split
  · exact raiseFatal_changes hh _
  · next hw => exact ⟨_, rfl, ((ChangesAtMost.refl ps s).writeBytes hq hw).advance⟩

theorem execLdLoad_changes (x : RegIdx) (hr : ∀ r : RegIdx, r ≤ x → .reg r ∈ ps) (hh : .halt ∈ ps) :
    NextChanges ps s (execLdLoad x s) := by
  unfold execLdLoad
  split
  · exact raiseFatal_changes hh _
  · next bs hbs =>
    have hlen := State.readBytes_length hbs
    refine ⟨_, rfl, ((ChangesAtMost.refl ps s).setRegsFrom 0 bs fun r hlt => hr r ?_).advance⟩
    exact Fin.le_def.mpr (by omega)

theorem execLdVxK_changes {x : RegIdx} (hx : .reg x ∈ ps) (hq : .picks ∈ ps) :
    NextChanges ps s (execLdVxK x s) := by
  unfold execLdVxK
  split
  · exact ⟨_, rfl, ChangesAtMost.refl ps s⟩
  · exact ⟨_, rfl, (((ChangesAtMost.refl ps s).setReg hx _).countPick hq).advance⟩

end Executors

/-- The registers of the footprint are those of rule R33. -/
theorem reg_mem_footprint {i : Instr} {r : RegIdx} : .reg r ∈ footprint i ↔ r ∈ writtenRegs i := by
  have hother : .reg r ∉ writtenParts i := by cases i <;> simp [writtenParts]
  simp [footprint, hother]

/-- What is in the footprint of an instruction, by its two tables. -/
@[simp] theorem mem_footprint {i : Instr} {p : Part} :
    p ∈ footprint i ↔ (∃ r ∈ writtenRegs i, .reg r = p) ∨ p ∈ writtenParts i := by
  simp [footprint]

/-- Every executor answers a next state, and writes at most its footprint and pc. -/
theorem exec_changes (i : Instr) (s : State) : NextChanges (footprint i) s (exec i s) := by
  have hs := ChangesAtMost.refl (footprint i) s
  cases i with
  | cls => exact ⟨_, rfl, (hs.setFb (by simp [writtenParts]) _).advance⟩
  | ret => exact execRet_changes (by simp [writtenParts]) (by simp [writtenParts])
  | jp | jpV0 => exact ⟨_, rfl, hs.setPc _⟩
  | call nnn => exact execCall_changes (by simp [writtenParts]) (by simp [writtenParts]) (by simp [writtenParts]) nnn
  | se | sne | seR | sneR | skp | sknp => exact skipIf_changes _ _ _
  | ldI8 | addI8 | ldR | orR | andR | xorR | ldVxDt => exact setReg_changes (by simp [writtenRegs]) _
  | addR | sub | shr | subn | shl | shlE =>
    exact flagOp_changes (by simp [writtenRegs]) (by simp [writtenRegs]) _ _ _
  | ldIdx | addI | ldF => exact setI_changes (by simp [writtenParts]) _
  | rnd x nn => exact ⟨_, rfl, ((hs.setReg (by simp [writtenRegs]) _).countDraw (by simp [writtenParts])).advance⟩
  | drw x y n => exact execDrw_changes (by simp [writtenRegs]) (by simp [writtenParts]) (by simp [writtenParts]) x y n
  | ldVxK x => exact execLdVxK_changes (by simp [writtenRegs]) (by simp [writtenParts])
  | ldDtVx x => exact ⟨_, rfl, (hs.setDt (by simp [writtenParts]) _).advance⟩
  | ldStVx x => exact ⟨_, rfl, (hs.setSt (by simp [writtenParts]) _).advance⟩
  | ldB x => exact execLdB_changes (by simp [writtenParts]) (by simp [writtenParts]) x
  | ldStore x => exact execLdStore_changes (by simp [writtenParts]) (by simp [writtenParts]) x
  | ldLoad x => exact execLdLoad_changes x (fun r hr => by simp [writtenRegs, hr]) (by simp [writtenParts])

/-- What an executor answered differs in its footprint and pc only. -/
theorem changes_of_exec {i : Instr} {s t : State} (h : exec i s = .next t) : ChangesAtMost (footprint i) s t := by
  obtain ⟨u, hu, hc⟩ := exec_changes i s
  cases h.symm.trans hu
  exact hc

/-! ## Steps -/

theorem step_of_halted {s : State} (h : s.halted = true) : step s = .next s := by
  simp [step, cycle, h]

/-- A running step on a decoded instruction is its executor and the end of the step (rule R104). -/
theorem step_of_fetches {s : State} {i : Instr} (hh : s.halted = false) (hf : s.Fetches i) :
    step s = endStep (exec i s) := by
  obtain ⟨op, hop, hdec⟩ := hf
  simp [step, cycle, hh, hop, hdec]

/-- A running step that cannot fetch halts (rule R106). -/
theorem step_of_fetch_eq_none {s : State} (hh : s.halted = false) (hf : s.fetch = none) :
    step s = .next (s.halt .fetchBounds) := by
  simp [step, cycle, hh, hf, raiseFatal]

/-- A running step on a word that selects no executor only goes on (rule R118). -/
theorem step_of_unrecognized {s : State} {op : Word} {u : Unrecognized} (hh : s.halted = false)
    (hf : s.fetch = some op) (hd : decodeWord s.cfg op = .error u) : step s = .next s.advance.endOfStep := by
  simp [step, cycle, hh, hf, hd, execUnrecognized, endStep]

/-- Every step answers a next state, in which a part that is neither a timer nor the halt state is written
only by the instruction the step fetches. -/
theorem step_changes (s : State) : ∃ t, step s = .next t ∧ ∀ p, p ∉ [Part.delay, .sound, .halt] →
    (∀ i, s.Fetches i → p ∉ footprint i) → p.Same s t := by
  obtain ⟨-, hs⟩ | ⟨-, -, hs⟩ | ⟨op, u, -, -, -, hs⟩ | ⟨op, i, -, hf, hdec, hs⟩ := step_cases s <;> rw [hs]
  · exact ⟨s, rfl, fun p _ _ => p.same_refl s⟩
  · exact ⟨_, rfl, fun p hp _ => (ChangesAtMost.refl _ s).halt (by simp) _ p hp⟩
  · exact ⟨_, rfl, fun p hp _ => (ChangesAtMost.refl _ s).advance.endOfStep (by simp) (by simp) p hp⟩
  · obtain ⟨t, ht, hc⟩ := exec_changes i s
    rw [ht]
    refine ⟨_, rfl, fun p hp hi => (hc p (hi i ⟨op, hf, hdec⟩)).trans ?_⟩
    exact (ChangesAtMost.refl _ t).endOfStep (by simp) (by simp) p hp

/-! ## Who writes what -/

/-- Settles O48: the registers of the footprint are those listed. -/
theorem onlyListedRegistersAreWritten : Obligations.OnlyListedRegistersAreWritten :=
  fun _ _ _ h r hr => changes_of_exec h (.reg r) (reg_mem_footprint.not.mpr hr)

/-- Settles O49: the index register is in three footprints. -/
theorem onlyThreeInstructionsWriteI : Obligations.OnlyThreeInstructionsWriteI := by
  intro i s t h hidx hadd hglyph
  refine changes_of_exec h .index ?_
  cases i with
  | ldIdx nnn => exact absurd rfl (hidx nnn)
  | addI x => exact absurd rfl (hadd x)
  | ldF x => exact absurd rfl (hglyph x)
  | _ => simp [writtenParts]

/-- Settles O50: the entries are in the footprint of CALL, the depth in those of CALL and RET. -/
theorem onlyCallAndRetTouchTheStack : Obligations.OnlyCallAndRetTouchTheStack := by
  intro i s t h hcall
  have hc := changes_of_exec h
  refine ⟨hc .stack ?_, fun hret => hc .depth ?_⟩
  · cases i with
    | call nnn => exact absurd rfl (hcall nnn)
    | _ => simp [writtenParts]
  · cases i with
    | call nnn => exact absurd rfl (hcall nnn)
    | ret => exact absurd rfl hret
    | _ => simp [writtenParts]

end Sys2Proof.Machine

/-! Proofs: dead stack entries (O57). Every executor but those of CALL and RET commutes with another choice
of stack entries; CALL and RET read and write none at or above SP but the one they push. -/

namespace Sys2Proof.Machine

/-! ## Operations with other stack entries -/

/-- The state with other stack entries and the same depth. -/
def State.withStack (s : State) (a : Vector Word 16) : State := { s with stack := a }

section WithStack

variable (s : State) (a : Vector Word 16)

@[simp] theorem State.withStack_stack : (s.withStack a).stack = a := rfl
@[simp] theorem State.withStack_sp : (s.withStack a).sp = s.sp := rfl
@[simp] theorem State.withStack_cfg : (s.withStack a).cfg = s.cfg := rfl
@[simp] theorem State.withStack_halted : (s.withStack a).halted = s.halted := rfl
@[simp] theorem State.withStack_keys : (s.withStack a).keys = s.keys := rfl
@[simp] theorem State.withStack_reg (x : RegIdx) : (s.withStack a).reg x = s.reg x := rfl
@[simp] theorem State.withStack_regsUpTo (x : RegIdx) : (s.withStack a).regsUpTo x = s.regsUpTo x := rfl
@[simp] theorem State.withStack_indexAddr : (s.withStack a).indexAddr = s.indexAddr := rfl

theorem State.withStack_flagOp (fl res : Byte → Byte → Byte) (x y : RegIdx) :
    (s.withStack a).flagOp fl res x y = (s.flagOp fl res x y).withStack a := by
  unfold State.flagOp
  rw [State.withStack_cfg]
  split <;> rfl

theorem State.withStack_setRegsFrom (k : Nat) (bs : List Byte) :
    (s.withStack a).setRegsFrom k bs = (s.setRegsFrom k bs).withStack a := by
  induction bs generalizing s k with
  | nil => rfl
  | cons b bs ih =>
    simp only [State.setRegsFrom, ← ih]
    split <;> rfl

theorem State.withStack_readBytes (b n : Nat) : (s.withStack a).readBytes b n = s.readBytes b n := by
  rw [State.readBytes_eq, State.readBytes_eq]
  rfl

theorem State.withStack_writeBytes (b : Nat) (bs : List Byte) :
    (s.withStack a).writeBytes b bs = (s.writeBytes b bs).map (·.withStack a) := by
  induction bs generalizing s b with
  | nil => rfl
  | cons v bs ih =>
    by_cases hb : b > 0xFFF
    · simp [State.writeBytes, State.memWrite, hb]
    · simp only [State.writeBytes, State.memWrite, if_neg hb, ← ih]
      rfl

theorem State.withStack_endOfStep : (s.withStack a).endOfStep = s.endOfStep.withStack a := by
  unfold State.endOfStep
  rw [State.withStack_halted, State.withStack_cfg]
  split
  · rfl
  · split <;> rfl

end WithStack

/-! ## Executors with other stack entries -/

/-- An outcome with its next state changed. -/
def mapNext (f : State → State) : Outcome → Outcome
  | .next t => .next (f t)
  | .fault r => .fault r
  | .refused r => .refused r

section Executors

variable (s : State) (a : Vector Word 16)

theorem withStack_flagOp_advance (fl res : Byte → Byte → Byte) (x y : RegIdx) :
    (.next ((s.withStack a).flagOp fl res x y).advance : Outcome) =
      .next ((s.flagOp fl res x y).advance.withStack a) := by
  rw [State.withStack_flagOp]
  rfl

theorem execDrw_withStack (x y : RegIdx) (n : Fin 16) :
    execDrw x y n (s.withStack a) = mapNext (·.withStack a) (execDrw x y n s) := by
  unfold execDrw
  rw [State.withStack_readBytes, State.withStack_indexAddr]
  split <;> rfl

theorem execLdB_withStack (x : RegIdx) :
    execLdB x (s.withStack a) = mapNext (·.withStack a) (execLdB x s) := by
  unfold execLdB
  rw [State.withStack_writeBytes, State.withStack_indexAddr, State.withStack_reg]
  cases s.writeBytes s.indexAddr (bcdDigits (s.reg x)) <;> rfl

theorem execLdStore_withStack (x : RegIdx) :
    execLdStore x (s.withStack a) = mapNext (·.withStack a) (execLdStore x s) := by
  unfold execLdStore
  rw [State.withStack_writeBytes, State.withStack_indexAddr, State.withStack_regsUpTo]
  cases s.writeBytes s.indexAddr (s.regsUpTo x) <;> rfl

theorem execLdLoad_withStack (x : RegIdx) :
    execLdLoad x (s.withStack a) = mapNext (·.withStack a) (execLdLoad x s) := by
  unfold execLdLoad
  rw [State.withStack_readBytes, State.withStack_indexAddr]
  cases s.readBytes s.indexAddr (x.val + 1) with
  | none => rfl
  | some bs =>
    simp only [State.withStack_setRegsFrom]
    rfl

theorem execLdVxK_withStack (x : RegIdx) :
    execLdVxK x (s.withStack a) = mapNext (·.withStack a) (execLdVxK x s) := by
  unfold execLdVxK
  rw [State.withStack_keys]
  split <;> rfl

/-- An instruction other than CALL and RET sees no stack entry. -/
theorem exec_withStack {i : Instr} (hcall : ∀ nnn, i ≠ .call nnn) (hret : i ≠ .ret) :
    exec i (s.withStack a) = mapNext (·.withStack a) (exec i s) := by
  cases i with
  | call nnn => exact absurd rfl (hcall nnn)
  | ret => exact absurd rfl hret
  | addR | sub | shr | subn | shl | shlE => exact withStack_flagOp_advance s a _ _ _ _
  | drw x y n => exact execDrw_withStack s a x y n
  | ldVxK x => exact execLdVxK_withStack s a x
  | ldB x => exact execLdB_withStack s a x
  | ldStore x => exact execLdStore_withStack s a x
  | ldLoad x => exact execLdLoad_withStack s a x
  | _ => rfl

end Executors

/-! ## Stacks that agree below SP -/

/-- The entries agree with those of s below its depth. -/
def State.AgreesBelowSp (s : State) (a : Vector Word 16) : Prop :=
  ∀ (j : Nat) (h : j < 16), j < s.sp.val → a[j] = s.stack[j]

/-- Where `run` takes s to t, it takes s with the entries a to t with entries that agree below t's depth. -/
def DeadEntriesUnseen (run : State → Outcome) (s : State) (a : Vector Word 16) : Prop :=
  ∀ t, run s = .next t → ∃ b, run (s.withStack a) = .next (t.withStack b) ∧ t.AgreesBelowSp b

theorem execRet_deadEntriesUnseen {s : State} {a : Vector Word 16} (h : s.AgreesBelowSp a) :
    DeadEntriesUnseen execRet s a := by
  intro t ht
  refine ⟨a, ?_⟩
  by_cases hsp : s.sp = 0
  · have hsp' : (s.withStack a).sp = 0 := hsp
    rw [execRet, State.popReturn_empty s hsp] at ht
    rw [execRet, State.popReturn_empty _ hsp']
    cases ht
    exact ⟨rfl, h⟩
  · have hpos : 0 < s.sp.val := Nat.pos_of_ne_zero fun h0 => hsp (Fin.ext h0)
    have hpos' : 0 < (s.withStack a).sp.val := hpos
    have htop := h (s.sp.val - 1) (by omega) (by omega)
    rw [execRet, State.popReturn_of_pos s hpos] at ht
    rw [execRet, State.popReturn_of_pos _ hpos']
    cases ht
    simp only [State.withStack_stack, State.withStack_sp, htop]
    refine ⟨rfl, fun j hj hlt => h j hj ?_⟩
    have hlt' : j < s.sp.val - 1 := hlt
    omega

theorem execCall_deadEntriesUnseen {s : State} {a : Vector Word 16} (h : s.AgreesBelowSp a) (nnn : Addr) :
    DeadEntriesUnseen (execCall nnn) s a := by
  intro t ht
  by_cases hsp : s.sp.val < 16
  · rw [execCall, State.pushReturn_of_room s _ hsp] at ht
    cases ht
    refine ⟨a.set s.sp.val (s.pc + 2), ?_, fun j hj hlt => ?_⟩
    · rw [execCall, State.pushReturn_of_room (s.withStack a) _ hsp]
      rfl
    · have hle : j < s.sp.val + 1 := hlt
      simp only [State.setPc_stack, State.setStack_stack, Vector.getElem_set]
      split
      · rfl
      · exact h j hj (by omega)
  · have hfull : s.sp = 16 := Fin.ext (by have := s.sp.isLt; omega)
    rw [execCall, State.pushReturn_full s _ hfull] at ht
    cases ht
    refine ⟨a, ?_, h⟩
    rw [execCall, State.pushReturn_full (s.withStack a) _ hfull]
    rfl

theorem exec_deadEntriesUnseen {s : State} {a : Vector Word 16} (h : s.AgreesBelowSp a) (i : Instr) :
    DeadEntriesUnseen (exec i) s a := by
  by_cases hret : i = .ret
  · subst hret
    exact execRet_deadEntriesUnseen h
  · by_cases hcall : ∃ nnn, i = .call nnn
    · obtain ⟨nnn, rfl⟩ := hcall
      exact execCall_deadEntriesUnseen h nnn
    · have hcall' : ∀ nnn, i ≠ .call nnn := fun nnn e => hcall ⟨nnn, e⟩
      intro t ht
      obtain ⟨hstack, hsp⟩ := onlyCallAndRetTouchTheStack i s t ht hcall'
      refine ⟨a, by rw [exec_withStack s a hcall' hret, ht]; rfl, fun j hj hlt => ?_⟩
      rw [hsp hret] at hlt
      simpa only [hstack] using h j hj hlt

theorem State.AgreesBelowSp.advance {s : State} {a : Vector Word 16} (h : s.AgreesBelowSp a) :
    s.advance.AgreesBelowSp a := h

theorem State.AgreesBelowSp.endOfStep {s : State} {a : Vector Word 16} (h : s.AgreesBelowSp a) :
    s.endOfStep.AgreesBelowSp a := by
  obtain ⟨-, hs⟩ | ⟨-, -, hs⟩ | ⟨-, -, hs⟩ := s.endOfStep_cases <;> rw [hs] <;> exact h

/-! ## Steps and runs -/

theorem step_deadEntriesUnseen {s : State} {a : Vector Word 16} (h : s.AgreesBelowSp a) :
    DeadEntriesUnseen step s a := by
  intro t ht
  obtain ⟨hh, hs⟩ | ⟨hh, hf, hs⟩ | ⟨op, u, hh, hf, hd, hs⟩ | ⟨op, i, hh, hf, hd, hs⟩ := step_cases s
  · cases hs.symm.trans ht
    exact ⟨a, step_of_halted (s := s.withStack a) hh, h⟩
  · cases hs.symm.trans ht
    exact ⟨a, step_of_fetch_eq_none (s := s.withStack a) hh hf, h⟩
  · cases hs.symm.trans ht
    refine ⟨a, ?_, h.advance.endOfStep⟩
    rw [step_of_unrecognized (s := s.withStack a) hh hf hd, ← State.withStack_endOfStep]
    rfl
  · obtain ⟨v, hv, -⟩ := exec_changes i s
    obtain ⟨b, hb, hvb⟩ := exec_deadEntriesUnseen h i v hv
    rw [hs, hv] at ht
    cases ht
    refine ⟨b, ?_, hvb.endOfStep⟩
    rw [step_of_fetches (s := s.withStack a) hh ⟨op, hf, hd⟩, hb, ← State.withStack_endOfStep]
    rfl

/-- Settles O57, by induction on the number of steps. -/
theorem noProgramSeesDeadStackEntries : Obligations.NoProgramSeesDeadStackEntries := by
  intro k
  induction k with
  | zero =>
    intro s t a h ht
    cases ht
    exact ⟨a, rfl, h⟩
  | succ k ih =>
    intro s t a h ht
    obtain ⟨u, hu, -⟩ := step_changes s
    obtain ⟨b, hb, hub⟩ := step_deadEntriesUnseen h u hu
    rw [core_run_succ hu] at ht
    obtain ⟨c, hc, htc⟩ := ih u t b hub ht
    exact ⟨c, (core_run_succ hb k).trans hc, htc⟩

end Sys2Proof.Machine

/-! Proofs: the host's commands (O1, O4, O5, O11, O13, O47, O53, O54, O59), each after what its effect
writes. -/

namespace Sys2Proof.Machine

/-! ## What the commands other than STEP write -/

/-- LOAD writes memory only (rule R345). -/
theorem State.load_eq (s : State) (bs : List Byte) : s.load bs = s.setMem (s.load bs).mem := by
  unfold State.load
  split
  · rfl
  · cases hw : s.writeBytes 0x200 bs with
    | none => rfl
    | some t =>
      obtain ⟨-, ht, -⟩ := State.writeBytes_some hw
      exact ht

/-- KEY_DOWN writes KEYS only (rule R50). -/
theorem State.keyDown_eq (s : State) (k : Nat) : s.keyDown k = s.setKeys (s.keyDown k).keys := by
  unfold State.keyDown
  split <;> rfl

/-- KEY_UP writes KEYS only (rule R50). -/
theorem State.keyUp_eq (s : State) (k : Nat) : s.keyUp k = s.setKeys (s.keyUp k).keys := by
  unfold State.keyUp
  split <;> rfl

/-- TICK leaves a halted machine as it is (rule R49). -/
theorem State.tickCommand_of_halted {s : State} (h : s.halted = true) : s.tickCommand = s := by
  simp [State.tickCommand, h]

@[simp] theorem State.load_keys (s : State) (bs : List Byte) : (s.load bs).keys = s.keys := by
  rw [State.load_eq, State.setMem_keys]

@[simp] theorem State.load_halted (s : State) (bs : List Byte) : (s.load bs).halted = s.halted := by
  rw [State.load_eq, State.setMem_halted]

@[simp] theorem State.load_err (s : State) (bs : List Byte) : (s.load bs).err = s.err := by
  rw [State.load_eq, State.setMem_err]

@[simp] theorem State.keyDown_halted (s : State) (k : Nat) : (s.keyDown k).halted = s.halted := by
  rw [State.keyDown_eq, State.setKeys_halted]

@[simp] theorem State.keyDown_err (s : State) (k : Nat) : (s.keyDown k).err = s.err := by
  rw [State.keyDown_eq, State.setKeys_err]

@[simp] theorem State.keyUp_halted (s : State) (k : Nat) : (s.keyUp k).halted = s.halted := by
  rw [State.keyUp_eq, State.setKeys_halted]

@[simp] theorem State.keyUp_err (s : State) (k : Nat) : (s.keyUp k).err = s.err := by
  rw [State.keyUp_eq, State.setKeys_err]

@[simp] theorem State.tickCommand_keys (s : State) : s.tickCommand.keys = s.keys := by
  unfold State.tickCommand
  split <;> rfl

@[simp] theorem State.tickCommand_halted (s : State) : s.tickCommand.halted = s.halted := by
  unfold State.tickCommand
  split <;> rfl

@[simp] theorem State.tickCommand_err (s : State) : s.tickCommand.err = s.err := by
  unfold State.tickCommand
  split <;> rfl

/-! ## The invariant under commands -/

namespace State.Inv

variable {s : State}

theorem setKeys (h : s.Inv) (ks : BitVec 16) : (s.setKeys ks).Inv := { h with }

/-- RESET keeps the parameters, so a legal choice of them (rule R340). -/
theorem resetCommand (h : s.Inv) : s.resetCommand.Inv := State.resetWith_inv h.cfg_wf _ _

theorem load (h : s.Inv) (bs : List Byte) : (s.load bs).Inv := by
  unfold State.load
  split
  · exact h
  · cases hw : s.writeBytes 0x200 bs with
    | none => exact h
    | some t => exact h.writeBytes hw

theorem keyDown (h : s.Inv) (k : Nat) : (s.keyDown k).Inv := by
  rw [State.keyDown_eq]
  exact h.setKeys _

theorem keyUp (h : s.Inv) (k : Nat) : (s.keyUp k).Inv := by
  rw [State.keyUp_eq]
  exact h.setKeys _

theorem tickCommand (h : s.Inv) : s.tickCommand.Inv := by
  unfold State.tickCommand
  split
  · exact h
  · exact h.tick

end State.Inv

/-- One command from a state that meets the invariant answers a state that meets it. -/
theorem command_meetsInv {s : State} (h : s.Inv) (c : Command) : NextMeetsInv (c.effect s) := by
  cases c with
  | reset => exact ⟨_, rfl, h.resetCommand⟩
  | load bs => exact ⟨_, rfl, h.load bs⟩
  | step => exact step_meetsInv h
  | tick => exact ⟨_, rfl, h.tickCommand⟩
  | keyDown k => exact ⟨_, rfl, h.keyDown k⟩
  | keyUp k => exact ⟨_, rfl, h.keyUp k⟩

/-- Commands that go on after the first one (rule R55). -/
theorem runCommands_cons {c : Command} {s t : State} (h : c.effect s = .next t) (cs : List Command) :
    runCommands (c :: cs) s = runCommands cs t := by
  simp [runCommands, h]

/-- Settles O4, by induction on the commands: each keeps the invariant. -/
theorem commandRunsKeepInvariant : Obligations.CommandRunsKeepInvariant := by
  intro cs
  induction cs with
  | nil =>
    intro s t h hr
    cases hr
    exact h
  | cons c cs ih =>
    intro s t h hr
    obtain ⟨u, hu, hinv⟩ := command_meetsInv h c
    rw [runCommands_cons hu] at hr
    exact ih u t hinv hr

/-- Settles O5: only STEP runs an executor, and every step answers a next state. -/
theorem everyCommandCompletes : Obligations.EveryCommandCompletes := by
  intro c s
  cases c with
  | step =>
    obtain ⟨t, ht, -⟩ := step_changes s
    exact ⟨t, ht⟩
  | _ => exact ⟨_, rfl⟩

/-! ## Keys -/

/-- KEYS is in no instruction's footprint (rule R42). -/
theorem keys_notMem_footprint (i : Instr) : .keys ∉ footprint i := by
  cases i <;> simp [writtenParts]

theorem step_keys {s t : State} (h : step s = .next t) : t.keys = s.keys := by
  obtain ⟨u, hu, hc⟩ := step_changes s
  cases h.symm.trans hu
  exact hc .keys (by simp) fun i _ => keys_notMem_footprint i

/-- Settles O53: KEYS is in no footprint, and LOAD, STEP and TICK keep it. -/
theorem onlyKeyCommandsChangeKeys : Obligations.OnlyKeyCommandsChangeKeys := by
  refine ⟨fun i s t h => changes_of_exec h .keys (keys_notMem_footprint i), fun c s t h hne => ?_⟩
  cases c with
  | reset => exact .inl rfl
  | keyDown k => exact .inr (.inl ⟨k, rfl⟩)
  | keyUp k => exact .inr (.inr ⟨k, rfl⟩)
  | step => exact absurd (step_keys h) hne
  | load bs =>
    cases h
    exact absurd (s.load_keys bs) hne
  | tick =>
    cases h
    exact absurd s.tickCommand_keys hne

/-- The bits of the set with one key (rule R42). -/
theorem getLsbD_keyBit (k : Nat) {j : Nat} (hj : j < 16) : (keyBit k).getLsbD j = decide (j = k) := by
  rw [keyBit, BitVec.getLsbD_ofNat, Nat.testBit_two_pow]
  simp [hj, eq_comm]

/-- Settles O59: up to 0xF the command is one bitwise operation with the set of the one key. -/
theorem keyCommandsSetOneKey : Obligations.KeyCommandsSetOneKey := by
  intro s k
  refine ⟨fun hk => ?_, fun hk => ?_⟩
  · have hgt : k > 0xF := hk
    simp [Command.effect, Command.result, State.keyDown, State.keyUp, hgt]
  · have hle : ¬ k > 0xF := by omega
    refine ⟨⟨by simp [Command.result, hle], _, rfl, s.keyDown_eq k, fun j hj => ?_⟩,
      by simp [Command.result, hle], _, rfl, s.keyUp_eq k, fun j hj => ?_⟩
    · rw [State.keyDown, if_neg hle, State.setKeys_keys, BitVec.getLsbD_or, getLsbD_keyBit k hj, Bool.or_comm]
    · rw [State.keyUp, if_neg hle, State.setKeys_keys, BitVec.getLsbD_and, BitVec.getLsbD_not,
        getLsbD_keyBit k hj, Bool.and_comm]
      simp [hj]

/-! ## The halt state -/

/-- Settles O54: STEP leaves a halted state as it is, and LOAD, TICK and the key commands write neither
HALTED nor ERR. -/
theorem onlyResetLeavesTheHaltedState : Obligations.OnlyResetLeavesTheHaltedState := by
  intro c s t h
  cases c with
  | reset =>
    cases h
    exact ⟨fun _ hne => absurd rfl hne, fun _ ht => absurd ht (by simp [State.resetCommand, State.resetWith])⟩
  | step =>
    refine ⟨fun hs _ => ?_, fun _ _ => rfl⟩
    cases (step_of_halted hs).symm.trans h
    exact ⟨hs, rfl⟩
  | load | tick | keyDown | keyUp =>
    cases h
    exact ⟨fun hs _ => by simp [hs], fun hs ht => absurd ht (by simp [hs])⟩

/-- Settles O13: no step of a run changes a halted state. -/
theorem haltedMachineStandsStill : Obligations.HaltedMachineStandsStill := by
  intro s h
  refine ⟨⟨step_of_halted h, by simp [State.stepResult, h]⟩, ⟨?_, by simp [Command.result, h]⟩, fun k => ?_⟩
  · rw [Command.effect, State.tickCommand_of_halted h]
  · induction k with
    | zero => rfl
    | succ k ih => rw [core_run_succ (step_of_halted h), ih]

/-! ## Reset -/

/-- Memory that lists nothing reads as FONT and zeros (rule R57). -/
theorem State.readByte_resetWith (cfg : Config) (n k a : Nat) :
    (State.resetWith cfg n k).readByte a = Memory.unlisted cfg.font a := rfl

theorem State.reg_resetWith (cfg : Config) (n k : Nat) (r : RegIdx) : (State.resetWith cfg n k).reg r = 0 := by
  simp [State.reg, State.resetWith]

/-- Settles O1: RESET is `State.resetWith` of the present parameters. -/
theorem resetGivesEveryResetValue : Obligations.ResetGivesEveryResetValue := by
  intro s
  refine ⟨rfl, s.resetCommand, rfl, State.reg_resetWith _ _ _, rfl, rfl, rfl, fun k hk => ?_, rfl, rfl, rfl,
    Framebuffer.get_clear _ _, Framebuffer.wf_clear _ _, rfl, rfl, rfl, fun a ha => ?_, fun a ha => ?_⟩
  · simp [State.resetCommand, State.resetWith]
  · rw [State.resetCommand, State.readByte_resetWith, Memory.unlisted, dif_pos ha]
  · rw [State.resetCommand, State.readByte_resetWith, Memory.unlisted, dif_neg (by omega)]

/-! ## The sound signal -/

theorem State.soundActive_iff (s : State) : s.soundActive = true ↔ s.st.toNat ≠ 0 := by
  simp [State.soundActive, ← BitVec.toNat_inj]

/-- Settles O47: a tick counts ST down, so it stays above 0 from 2 on. -/
theorem soundSignalFollowsSoundTimer : Obligations.SoundSignalFollowsSoundTimer := by
  intro s
  refine ⟨s.soundActive_iff, ?_⟩
  rw [State.soundActive_iff, State.tick_st, tickTimer_toNat]
  omega

/-! ## A step on a decoded instruction -/

/-- The decoder gives back every instruction of the machine (rule R108). -/
theorem decodeWord_encode {cfg : Config} {i : Instr} (h : i.wellFormed cfg = true) :
    decodeWord cfg (encode i) = .ok i := by
  cases i with
  | shlE x y =>
    have hcfg : cfg.shlAliasE = true := h
    simp [encode, decodeWord, decodeClass8, hcfg]
  | cls | ret => simp [encode, decodeWord, decodeClass0]
  | skp | sknp => simp [encode, decodeWord, decodeClassE]
  | ldVxDt | ldVxK | ldDtVx | ldStVx | addI | ldF | ldB | ldStore | ldLoad =>
    simp [encode, decodeWord, decodeClassF]
  | ldR | orR | andR | xorR | addR | sub | shr | subn | shl => simp [encode, decodeWord, decodeClass8]
  | _ => simp [encode, decodeWord]

/-- What the two bytes at pc decode to is what the step fetches (rule R105). -/
theorem State.fetches_of_decode {s : State} {i : Instr} (hpc : s.pc.toNat ≤ 0xFFE)
    (h : decodeWord s.cfg (wordOfBytes (s.readByte s.pc.toNat) (s.readByte (s.pc.toNat + 1))) = .ok i) :
    s.Fetches i := ⟨_, s.fetch_eq_some hpc, h⟩

/-- Two bytes that are those of an instruction make its word (rule R78). -/
theorem wordOfBytes_of_encodeBytes {hi lo : Byte} {i : Instr} (h : [hi, lo] = encodeBytes i) :
    wordOfBytes hi lo = encode i := by
  cases h
  exact wordOfBytes_bytesOfWord (encode i)

/-- FX0A raises no fatal error (rule R283). -/
theorem halted_of_exec_ldVxK {x : RegIdx} {s t : State} (h : exec (.ldVxK x) s = .next t) :
    t.halted = s.halted := (changes_of_exec h .halt (by simp [writtenParts])).1

/-- Settles O11: the bytes at pc decode to the instruction either way, so the step fetches it; what it
returns is `execResult_of_exec`, and FX0A never halts. -/
theorem stepRunsTheDecodedInstruction : Obligations.StepRunsTheDecodedInstruction := by
  intro s i hrun hpc hbytes
  have hf : s.Fetches i := by
    refine State.fetches_of_decode hpc ?_
    obtain hdec | ⟨hwf, henc⟩ := hbytes
    · exact hdec
    · rw [wordOfBytes_of_encodeBytes henc, decodeWord_encode hwf]
  obtain ⟨t, ht, -⟩ := exec_changes i s
  have hres := State.stepResult_of_fetches hrun hf
  refine ⟨t, ht, by rw [step_of_fetches hrun hf, ht]; rfl, fun hhalt => ?_, fun hhalt hk => ?_, ?_⟩
  · have hk : ∀ x, i ≠ .ldVxK x := by
      rintro x rfl
      rw [halted_of_exec_ldVxK ht, hrun] at hhalt
      cases hhalt
    rw [hres, execResult_of_exec hk ht, if_pos hhalt]
  · rw [hres, execResult_of_exec hk ht, hhalt]
    rfl
  · rintro x rfl
    rw [hres, execResult_ldVxK]

end Sys2Proof.Machine


/-! Proofs: memory (O10, O37, O38, O52). What a fetch, a byte access and a store do to memory, each said
once; which instructions and commands write memory is read off the footprints. -/

namespace Sys2Proof.Machine

/-! ## Fetch -/

/-- A step that cannot fetch returns FETCH_BOUNDS, or ERR where the machine is halted (rule R48, rule R106). -/
theorem State.stepResult_of_fetch_eq_none {s : State} (hf : s.fetch = none) :
    s.stepResult = if s.halted then .fatal s.err else .fatal .fetchBounds := by
  simp [State.stepResult, hf]

/-- Settles O10: the fetched word is the two bytes at pc, and above 0xFFE there is none. -/
theorem fetchIsBigEndianAndBounded : Obligations.FetchIsBigEndianAndBounded := by
  intro s
  refine ⟨fun hpc => ⟨_, s.fetch_eq_some hpc, wordOfBytes_toNat _ _⟩, fun hpc => ?_⟩
  have hf : s.fetch = none := s.fetch_eq_none.mpr hpc
  exact ⟨hf, State.stepResult_of_fetch_eq_none hf, fun hrun => step_of_fetch_eq_none hrun hf⟩

/-! ## One byte (rule R74, rule R75) -/

theorem State.memWrite_eq (s : State) (a : Nat) (v : Byte) :
    s.memWrite a v =
      if a ≤ 0xFFF then some (s.setMem (Memory.write s.cfg.font s.mem a v)) else none := by
  unfold State.memWrite
  by_cases h : a ≤ 0xFFF
  · rw [if_neg (by omega), if_pos h]
  · rw [if_pos (by omega), if_neg h]

theorem State.memRead_eq_none (s : State) (a : Nat) : s.memRead a = none ↔ 0xFFF < a := by
  simp [State.memRead_eq]

theorem State.memWrite_eq_none (s : State) (a : Nat) (v : Byte) : s.memWrite a v = none ↔ 0xFFF < a := by
  simp [State.memWrite_eq]

/-- If a write of a byte answers a state, the address was in range and that state has the byte written. -/
theorem State.memWrite_some {s t : State} {a : Nat} {v : Byte} (h : s.memWrite a v = some t) :
    a ≤ 0xFFF ∧ t = s.setMem (Memory.write s.cfg.font s.mem a v) := by
  rw [State.memWrite_eq] at h
  split at h
  · next ha => exact ⟨ha, (Option.some.inj h).symm⟩
  · cases h

/-- A byte of memory after one byte is written. -/
theorem State.readByte_setMem_write (s : State) (a b : Nat) (v : Byte) :
    (s.setMem (Memory.write s.cfg.font s.mem a v)).readByte b = if b = a then v else s.readByte b := by
  rw [State.readByte_setMem, Memory.read_write]
  rfl

/-- Settles O37: a write that succeeds replaces the byte at its address and nothing else. -/
theorem byteReadAfterWrite : Obligations.ByteReadAfterWrite := by
  intro s a v
  refine ⟨s.memRead_eq_none a, s.memWrite_eq_none a v, fun t ht => ?_⟩
  obtain ⟨ha, rfl⟩ := State.memWrite_some ht
  refine ⟨?_, fun b hb => ?_, rfl, fun hwf => Memory.wf_write hwf (by omega) v⟩
  · rw [State.memRead_eq, if_pos ha, State.readByte_setMem_write, if_pos rfl]
  · rw [State.memRead_eq, State.memRead_eq, State.readByte_setMem_write, if_neg hb]

/-! ## Stores -/

/-- A store in range succeeds (rule R76). -/
theorem State.exists_writeBytes (s : State) {a : Nat} {bs : List Byte} (h : a + bs.length ≤ 0x1000) :
    ∃ t, s.writeBytes a bs = some t :=
  Option.isSome_iff_exists.mp ((s.writeBytes_isSome a bs).mpr (.inr h))

/-- Every byte of memory after a store that succeeds. -/
theorem State.readByte_of_writeBytes {s t : State} {a : Nat} {bs : List Byte}
    (h : s.writeBytes a bs = some t) (b : Nat) : t.readByte b = s.byteAfterStore a bs b := by
  obtain ⟨-, -, hread⟩ := State.writeBytes_some h
  rw [hread, State.byteAfterStore]
  by_cases hb : a ≤ b ∧ b < a + bs.length
  · rw [dif_pos hb, if_pos hb, List.getD_eq_getElem]
  · rw [dif_neg hb, if_neg hb]

/-- FX33 whose store succeeds (rule R233). -/
theorem exec_ldB_of_writeBytes {x : RegIdx} {s u : State}
    (h : s.writeBytes s.indexAddr (bcdDigits (s.reg x)) = some u) :
    exec (.ldB x) s = .next u.advance := by
  simp [exec, execLdB, h]

/-- FX55 whose store succeeds (rule R234). -/
theorem exec_ldStore_of_writeBytes {x : RegIdx} {s u : State}
    (h : s.writeBytes s.indexAddr (s.regsUpTo x) = some u) :
    exec (.ldStore x) s = .next u.advance := by
  simp [exec, execLdStore, h]

/-- FX33 and FX55 in range store their bytes at I and go on. -/
theorem exec_store_in_range {x : RegIdx} {s : State} {i : Instr} {bs : List Byte}
    (hi : (i, bs) ∈ [(Instr.ldB x, bcdDigits (s.reg x)), (Instr.ldStore x, s.regsUpTo x)])
    (hr : s.indexAddr + bs.length ≤ 0x1000) :
    ∃ u, s.writeBytes s.indexAddr bs = some u ∧ exec i s = .next u.advance := by
  obtain ⟨u, hu⟩ := s.exists_writeBytes hr
  refine ⟨u, hu, ?_⟩
  simp only [List.mem_cons, Prod.mk.injEq, List.not_mem_nil, or_false] at hi
  obtain ⟨rfl, rfl⟩ | ⟨rfl, rfl⟩ := hi
  · exact exec_ldB_of_writeBytes hu
  · exact exec_ldStore_of_writeBytes hu

/-- Settles O38: the fetch reads the memory that the store left. -/
theorem fetchSeesStoredBytes : Obligations.FetchSeesStoredBytes := by
  intro x s t i bs hi hr ht p hp
  obtain ⟨u, hu, hexec⟩ := exec_store_in_range hi hr
  cases hexec.symm.trans ht
  have hread : ∀ b, (u.advance.setPc p).readByte b = s.byteAfterStore s.indexAddr bs b := fun b => by
    rw [State.setPc_readByte, State.advance_readByte, State.readByte_of_writeBytes hu]
  rw [State.fetch_eq_some _ hp, State.setPc_pc, hread, hread]

/-! ## Who writes memory -/

/-- Memory is read by its list and by the font (rule R57), so it reads alike where both are kept. -/
theorem keepsMemory_of_same {s t : State} (hmem : Part.memory.Same s t) (hcfg : Part.params.Same s t) :
    KeepsMemory s t := by
  intro a
  simp only [Part.Same] at hmem hcfg
  rw [State.readByte, State.readByte, hmem, hcfg]

/-- The parameters are in no instruction's footprint. -/
theorem params_notMem_footprint (i : Instr) : .params ∉ footprint i := by
  cases i <;> simp [writtenParts]

/-- Memory is in the footprints of FX33 and FX55 only (rule R77). -/
theorem memory_mem_footprint {i : Instr} :
    .memory ∈ footprint i ↔ ∃ x, i = .ldB x ∨ i = .ldStore x := by
  cases i <;> simp [writtenParts]

/-- A step that fetches neither FX33 nor FX55 keeps memory. -/
theorem step_keepsMemory {s t : State} (h : step s = .next t)
    (hno : ¬ ∃ x, s.Fetches (.ldB x) ∨ s.Fetches (.ldStore x)) : KeepsMemory s t := by
  obtain ⟨u, hu, hsame⟩ := step_changes s
  cases h.symm.trans hu
  refine keepsMemory_of_same (hsame .memory (by simp) fun i hi hmem => ?_)
    (hsame .params (by simp) fun i _ => params_notMem_footprint i)
  obtain ⟨x, rfl | rfl⟩ := memory_mem_footprint.mp hmem
  · exact hno ⟨x, .inl hi⟩
  · exact hno ⟨x, .inr hi⟩

@[simp] theorem State.tickCommand_readByte (s : State) (a : Nat) : s.tickCommand.readByte a = s.readByte a := by
  unfold State.tickCommand
  split <;> rfl

@[simp] theorem State.keyDown_readByte (s : State) (k a : Nat) : (s.keyDown k).readByte a = s.readByte a := by
  rw [State.keyDown_eq, State.setKeys_readByte]

@[simp] theorem State.keyUp_readByte (s : State) (k a : Nat) : (s.keyUp k).readByte a = s.readByte a := by
  rw [State.keyUp_eq, State.setKeys_readByte]

/-- Settles O52: memory is in the footprints of FX33 and FX55 only, and of the commands but LOAD and RESET
only STEP runs an instruction. -/
theorem onlyStoresChangeMemory : Obligations.OnlyStoresChangeMemory := by
  refine ⟨fun i s t h hB hStore => ?_, fun c s t h hreset hload hchange => ?_⟩
  · refine keepsMemory_of_same (changes_of_exec h .memory fun hmem => ?_)
      (changes_of_exec h .params (params_notMem_footprint i))
    obtain ⟨x, hi | hi⟩ := memory_mem_footprint.mp hmem
    · exact hB x hi
    · exact hStore x hi
  · cases c with
    | reset => exact absurd rfl hreset
    | load bs => exact absurd rfl (hload bs)
    | step => exact ⟨rfl, by_contra fun hno => hchange (step_keepsMemory h hno)⟩
    | tick | keyDown | keyUp =>
      cases h
      exact absurd (fun a => by simp) hchange

end Sys2Proof.Machine

/-! Proofs: the decoder (O6, O7, O8, O9, O12) and where pc goes (O55). The set of rule R118 is told class by
class; a step on one of its words, and an executor of each kind, is then followed to its pc. -/

namespace Sys2Proof.Machine

/-! ## The round trip -/

/-- Two bytes are decoded as the word they lie as, whatever follows them (rule R100, rule R78). -/
theorem decodeBytes_bytesOfWord_append {cfg : Config} {w : Word} {i : Instr} (h : decodeWord cfg w = .ok i)
    (rest : List Byte) : decodeBytes cfg (bytesOfWord w ++ rest) = .ok (i, rest) := by
  simp [bytesOfWord, decodeBytes, wordOfBytes_bytesOfWord, h]

/-- Settles O6: the fields of a packed word are those it was packed of (`decodeWord_encode`), and its two
bytes make the word again. -/
theorem decodeInvertsEncode : Obligations.DecodeInvertsEncode := fun _ _ h =>
  ⟨decodeWord_encode h, decodeBytes_bytesOfWord_append (decodeWord_encode h)⟩

/-- Settles O8: each field is a quotient and a remainder of the word's number. -/
theorem fieldsAreTheWordsBits : Obligations.FieldsAreTheWordsBits := fun op =>
  ⟨fieldC_toNat op, fieldX_val op, fieldY_val op, fieldN_val op, fieldNN_toNat op, fieldNNN_toNat op⟩

/-- Settles O9, by evaluation of the decoder on the seven words. -/
theorem tableWordsDecode : Obligations.TableWordsDecode := by
  unfold Obligations.TableWordsDecode
  decide

/-! ## The words that are rejected (rule R118) -/

/-- The decoder rejects the word. -/
def Rejects (d : Except Unrecognized Instr) : Prop := ∃ u, d = .error u

@[simp] theorem rejects_error (u : Unrecognized) : Rejects (.error u) := ⟨u, rfl⟩

@[simp] theorem not_rejects_ok (i : Instr) : ¬ Rejects (.ok i) := by
  rintro ⟨u, hu⟩
  cases hu

theorem decodeClass0_rejects (op : Word) :
    Rejects (decodeClass0 op) ↔ op.toNat % 256 ∉ [0xE0, 0xEE] := by
  rw [← fieldNN_toNat]
  unfold decodeClass0
  split <;> simp_all

/-- N = E is rejected where SHL_ALIAS_E is false (rule R9); the values that no row lists are 9 to D and F. -/
theorem decodeClass8_rejects (cfg : Config) (op : Word) :
    Rejects (decodeClass8 cfg op) ↔
      op.toNat % 16 ∈ [0x9, 0xA, 0xB, 0xC, 0xD, 0xF] ∨ (op.toNat % 16 = 0xE ∧ cfg.shlAliasE = false) := by
  rw [← fieldN_val]
  have hlt := (fieldN op).isLt
  unfold decodeClass8
  split
  case h_10 hE => cases cfg.shlAliasE <;> simp [hE]
  case h_11 =>
    refine iff_of_true (rejects_error _) (.inl ?_)
    simp only [imp_false, List.mem_cons, List.not_mem_nil, or_false] at *
    omega
  all_goals simp [*]

theorem decodeClassE_rejects (op : Word) :
    Rejects (decodeClassE op) ↔ op.toNat % 256 ∉ [0x9E, 0xA1] := by
  rw [← fieldNN_toNat]
  unfold decodeClassE
  split <;> simp_all

theorem decodeClassF_rejects (op : Word) :
    Rejects (decodeClassF op) ↔
      op.toNat % 256 ∉ [0x07, 0x0A, 0x15, 0x18, 0x1E, 0x29, 0x33, 0x55, 0x65] := by
  rw [← fieldNN_toNat]
  unfold decodeClassF
  split <;> simp_all

/-- Classes 1 to 7 and 9 to D reject no word; each other class rejects its own. -/
theorem decodeWord_rejects (cfg : Config) (op : Word) :
    Rejects (decodeWord cfg op) ↔ UnrecognizedWord cfg op.toNat := by
  unfold UnrecognizedWord decodeWord
  rw [← fieldC_toNat]
  split
  case h_1 h0 => simp [h0, decodeClass0_rejects]
  case h_9 h8 => simp [h8, decodeClass8_rejects]
  case h_15 hE => simp [hE, decodeClassE_rejects]
  case h_16 =>
    have hF : (fieldC op).toNat = 0xF := by
      have := (fieldC op).isLt
      simp only [imp_false] at *
      omega
    simp [hF, decodeClassF_rejects]
  all_goals simp [*]

/-- Settles O7: `decodeWord_rejects` is the statement, class by class. -/
theorem unrecognizedWordsAreExactlyThese : Obligations.UnrecognizedWordsAreExactlyThese :=
  decodeWord_rejects

/-! ## A step on a rejected word (rule R320) -/

@[simp] theorem State.endOfStep_pc (t : State) : t.endOfStep.pc = t.pc := by
  obtain ⟨-, h⟩ | ⟨-, -, h⟩ | ⟨-, -, h⟩ := t.endOfStep_cases <;> simp [h]

/-- DT at the end of a step that did not halt (rule R104, rule R287). -/
theorem State.endOfStep_dt {t : State} (h : t.halted = false) :
    t.endOfStep.dt.toNat = if t.cfg.timersInStep then t.dt.toNat - 1 else t.dt.toNat := by
  obtain ⟨hh, -⟩ | ⟨-, hoff, he⟩ | ⟨-, hon, he⟩ := t.endOfStep_cases
  · simp [h] at hh
  · simp [he, hoff]
  · simp [he, hon, tickTimer_toNat]

/-- ST at the end of a step that did not halt (rule R104, rule R287). -/
theorem State.endOfStep_st {t : State} (h : t.halted = false) :
    t.endOfStep.st.toNat = if t.cfg.timersInStep then t.st.toNat - 1 else t.st.toNat := by
  obtain ⟨hh, -⟩ | ⟨-, hoff, he⟩ | ⟨-, hon, he⟩ := t.endOfStep_cases
  · simp [h] at hh
  · simp [he, hoff]
  · simp [he, hon, tickTimer_toNat]

/-- A running step on a word of rule R118 only goes on. -/
theorem step_of_unrecognizedWord {s : State} {op : Word} (hh : s.halted = false) (hf : s.fetch = some op)
    (hw : UnrecognizedWord s.cfg op.toNat) :
    step s = .next s.advance.endOfStep ∧ s.stepResult = .unrecognized := by
  obtain ⟨u, hu⟩ := (decodeWord_rejects s.cfg op).mpr hw
  exact ⟨step_of_unrecognized hh hf hu, by simp [State.stepResult, hh, hf, hu]⟩

/-- Settles O12: going on writes pc only, and the end of the step the timers only. -/
theorem unrecognizedStepOnlyAdvances : Obligations.UnrecognizedStepOnlyAdvances := by
  intro s op hh hf hw
  obtain ⟨hstep, hres⟩ := step_of_unrecognizedWord hh hf hw
  have hc : ChangesAtMost [.delay, .sound] s s.advance.endOfStep :=
    (ChangesAtMost.refl _ s).advance.endOfStep (by simp) (by simp)
  obtain ⟨hhalted, herr⟩ := hc .halt (by simp)
  exact ⟨hres, _, hstep, s.advance.endOfStep_pc, State.endOfStep_dt hh, State.endOfStep_st hh,
    fun r _ => hc (.reg r) (by simp), hc .index (by simp), ⟨hc .stack (by simp), hc .depth (by simp)⟩,
    keepsMemory_of_same (hc .memory (by simp)) (hc .params (by simp)), hc .screen (by simp),
    ⟨hc .keys (by simp), hhalted, herr, hc .params (by simp)⟩, hc .draws (by simp), hc .picks (by simp)⟩

/-! ## Where pc goes (rule R109) -/

section Pc

variable {s t : State}

/-- An executor that did not halt raised no fatal error (rule R311). -/
theorem raiseFatal_ne_running {code : ErrCode} (ht : t.halted = false) : raiseFatal code s ≠ .next t := by
  rintro ⟨⟩
  cases ht

/-- A jump to NNN + V0 does not wrap (rule R147). -/
theorem addrOperand_add_regWord_toNat (nnn : Addr) (x : RegIdx) :
    (addrOperand nnn + s.regWord x).toNat = nnn.toNat + (s.reg x).toNat := by
  have := nnn.isLt
  have := (s.reg x).isLt
  rw [BitVec.toNat_add, addrOperand_toNat, State.regWord_toNat, Nat.mod_eq_of_lt (by omega)]

/-- A skip taken when p holds. -/
theorem State.skipIf_pc_of_iff (s : State) {c : Bool} {p : Prop} [Decidable p] (h : c = true ↔ p) :
    (s.skipIf c).pc = if p then s.pc + 4 else s.pc + 2 := by
  simp only [State.skipIf_pc, h]
  split <;> rfl

/-- A skip taken unless p holds. -/
theorem State.skipIf_pc_of_iff_not (s : State) {c : Bool} {p : Prop} [Decidable p] (h : c = true ↔ ¬ p) :
    (s.skipIf c).pc = if p then s.pc + 2 else s.pc + 4 := by
  rw [s.skipIf_pc_of_iff h, ite_not]

theorem execRet_pc (h : execRet s = .next t) (ht : t.halted = false) :
    ∃ hsp : 0 < s.sp.val, t.pc = s.stack[s.sp.val - 1]'(by omega) := by
  by_cases hsp : 0 < s.sp.val
  · rw [execRet, State.popReturn_of_pos s hsp] at h
    cases h
    exact ⟨hsp, rfl⟩
  · rw [execRet, State.popReturn_empty s (Fin.ext (by omega))] at h
    exact absurd h (raiseFatal_ne_running ht)

theorem execCall_pc {nnn : Addr} (h : execCall nnn s = .next t) (ht : t.halted = false) :
    t.pc.toNat = nnn.toNat := by
  unfold execCall at h
  split at h
  · exact absurd h (raiseFatal_ne_running ht)
  · cases h
    exact addrOperand_toNat nnn

theorem execDrw_pc {x y : RegIdx} {n : Fin 16} (h : execDrw x y n s = .next t) (ht : t.halted = false) :
    t.pc = s.pc + 2 := by
  unfold execDrw at h
  split at h
  · exact absurd h (raiseFatal_ne_running ht)
  · cases h
    rfl

theorem execLdB_pc {x : RegIdx} (h : execLdB x s = .next t) (ht : t.halted = false) : t.pc = s.pc + 2 := by
  unfold execLdB at h
  split at h
  · exact absurd h (raiseFatal_ne_running ht)
  · next hw =>
    cases h
    rw [State.advance_pc, State.writeBytes_pc hw]

theorem execLdStore_pc {x : RegIdx} (h : execLdStore x s = .next t) (ht : t.halted = false) :
    t.pc = s.pc + 2 := by
  unfold execLdStore at h
  split at h
  · exact absurd h (raiseFatal_ne_running ht)
  · next hw =>
    cases h
    rw [State.advance_pc, State.writeBytes_pc hw]

theorem execLdLoad_pc {x : RegIdx} (h : execLdLoad x s = .next t) (ht : t.halted = false) :
    t.pc = s.pc + 2 := by
  unfold execLdLoad at h
  split at h
  · exact absurd h (raiseFatal_ne_running ht)
  · cases h
    rw [State.advance_pc, State.setRegsFrom_pc]

theorem execLdVxK_pc {x : RegIdx} (h : execLdVxK x s = .next t) :
    t.pc = if s.keys = 0 then s.pc else s.pc + 2 := by
  unfold execLdVxK at h
  split at h <;> cases h
  · next hk => rw [if_pos hk]
  · next hk => rw [if_neg hk, State.advance_pc, State.countPick_pc, State.setReg_pc]

end Pc

/-- Settles O55: the instructions that may raise a fatal error by their inversion, the others by what their
executor sets pc to. -/
theorem pcGoesWhereTheTableSays : Obligations.PcGoesWhereTheTableSays := by
  refine ⟨fun i s t _ h ht => ?_, fun s t op hh hf hw h => ?_⟩
  · cases i with
    | ret => exact execRet_pc h ht
    | call nnn => exact execCall_pc h ht
    | drw x y n => exact execDrw_pc h ht
    | ldB x => exact execLdB_pc h ht
    | ldStore x => exact execLdStore_pc h ht
    | ldLoad x => exact execLdLoad_pc h ht
    | ldVxK x => exact execLdVxK_pc h
    | jp nnn =>
      cases h
      exact addrOperand_toNat nnn
    | jpV0 nnn =>
      cases h
      exact addrOperand_add_regWord_toNat nnn 0
    | se | seR | skp =>
      cases h
      exact s.skipIf_pc_of_iff (by simp)
    | sne | sneR | sknp =>
      cases h
      exact s.skipIf_pc_of_iff_not (by simp)
    | addR | sub | shr | subn | shl | shlE =>
      cases h
      rw [State.advance_pc, State.flagOp_pc]
    | _ =>
      cases h
      rfl
  · obtain ⟨hstep, -⟩ := step_of_unrecognizedWord hh hf hw
    cases h.symm.trans hstep
    exact s.advance.endOfStep_pc

end Sys2Proof.Machine

/-! Proofs: control transfer (O16 to O22). A word given by its number decodes as the word packed of its fields;
an operation that writes no listed part keeps what the statements name; and each of RET and CALL is told once,
by the depth it finds. -/

namespace Sys2Proof.Machine

/-! ## Words given by their numbers (rule R101) -/

section Words

variable {cfg : Config} {i : Instr} {m : Nat}

theorem decodesTo_of_toNat_eq {w : Nat} {op : Word} (hw : op.toNat = w) (h : decodeWord cfg op = .ok i) :
    DecodesTo cfg w i := by
  rw [DecodesTo, ← hw, BitVec.ofNat_toNat, BitVec.setWidth_eq, h]

theorem decodesTo_wordNNN (c : BitVec 4) {nnn : Addr} (hm : m = c.toNat * 4096)
    (h : decodeWord cfg (packNNN c nnn) = .ok i) : DecodesTo cfg (wordNNN m nnn) i :=
  decodesTo_of_toNat_eq (by rw [packNNN_toNat, wordNNN, hm]) h

theorem decodesTo_wordXNN (c : BitVec 4) {x : RegIdx} {nn : Byte} (hm : m = c.toNat * 4096)
    (h : decodeWord cfg (packXNN c x nn) = .ok i) : DecodesTo cfg (wordXNN m x nn) i :=
  decodesTo_of_toNat_eq (by rw [packXNN_toNat, wordXNN, hm, Nat.mul_comm x.val]) h

/-- The last digit may stand in the row's match, as in class 8, or in the operand. -/
theorem decodesTo_wordXYN (c : BitVec 4) (d : Fin 16) {x y n : Fin 16} (hm : m + n.val = c.toNat * 4096 + d.val)
    (h : decodeWord cfg (packXYN c x y d) = .ok i) : DecodesTo cfg (wordXYN m x y n) i :=
  decodesTo_of_toNat_eq (by rw [packXYN_toNat, wordXYN]; omega) h

end Words

/-! ## What is kept where few parts are written -/

namespace ChangesAtMost

variable {s t : State}

theorem mono {ps qs : List Part} (h : ChangesAtMost ps s t) (hsub : ps ⊆ qs) : ChangesAtMost qs s t :=
  fun p hp => h p fun hps => hp (hsub hps)

/-- Where at most general registers, the call stack and pc are written, everything else is kept. -/
theorem keepsAllButStack {ws : List RegIdx} (h : ChangesAtMost (.stack :: .depth :: ws.map .reg) s t) :
    KeepsRegsExcept ws s t ∧ t.i = s.i ∧ KeepsTimers s t ∧ KeepsMemory s t ∧ KeepsScreen s t ∧
      KeepsHostState s t ∧ KeepsOracles s t := by
  obtain ⟨hhalted, herr⟩ := h .halt (by simp)
  exact ⟨fun r hr => h (.reg r) (by simpa using hr), h .index (by simp), ⟨h .delay (by simp), h .sound (by simp)⟩,
    keepsMemory_of_same (h .memory (by simp)) (h .params (by simp)), h .screen (by simp),
    ⟨h .keys (by simp), hhalted, herr, h .params (by simp)⟩, h .draws (by simp), h .picks (by simp)⟩

/-- Where at most general registers and pc are written, the call stack is kept too. -/
theorem onlyRegs {ws : List RegIdx} (h : ChangesAtMost (ws.map .reg) s t) : ChangesOnlyRegs ws s t := by
  obtain ⟨hregs, hi, hrest⟩ := (h.mono fun p hp => by simp [hp]).keepsAllButStack (ws := ws)
  exact ⟨hregs, hi, ⟨h .stack (by simp), h .depth (by simp)⟩, hrest⟩

end ChangesAtMost

/-- An instruction that may write no part beside its registers and pc keeps the rest. -/
theorem onlyRegs_of_exec {i : Instr} {s t : State} (hparts : writtenParts i = []) (h : exec i s = .next t) :
    ChangesOnlyRegs (writtenRegs i) s t := by
  have hc := changes_of_exec h
  rw [footprint, hparts, List.append_nil] at hc
  exact hc.onlyRegs

/-! ## Skips -/

/-- An instruction that skips when p holds writes pc only. -/
theorem exec_skip {i : Instr} {s : State} {c : Bool} {p : Prop} [Decidable p]
    (hi : exec i s = .next (s.skipIf c)) (hc : c = true ↔ p) :
    ∃ t, exec i s = .next t ∧ ChangesOnlyRegs [] s t ∧ t.pc = if p then s.pc + 4 else s.pc + 2 :=
  ⟨_, hi, ((ChangesAtMost.refl [] s).setPc _).onlyRegs (ws := []), s.skipIf_pc_of_iff hc⟩

/-! ## RET and CALL, by the depth they find -/

section Stack

variable {s u : State}

theorem exec_ret_of_pop {ra : Word} (h : s.popReturn = some (ra, u)) : exec .ret s = .next (u.setPc ra) := by
  rw [exec, execRet, h]

theorem exec_call_of_push (nnn : Addr) (h : s.pushReturn (s.pc + 2) = some u) :
    exec (.call nnn) s = .next (u.setPc (addrOperand nnn)) := by
  rw [exec, execCall, h]

theorem exec_ret_of_empty (h : s.sp = 0) : exec .ret s = raiseFatal .stackUnderflow s := by
  rw [exec, execRet, State.popReturn_empty s h]

theorem exec_call_of_full (nnn : Addr) (h : s.sp = 16) : exec (.call nnn) s = raiseFatal .stackOverflow s := by
  rw [exec, execCall, State.pushReturn_full s _ h]

theorem exec_ret_of_pos (h : 0 < s.sp.val) :
    ∃ t, exec .ret s = .next t ∧ t.sp.val = s.sp.val - 1 ∧ t.pc = s.stack[s.sp.val - 1]'(by omega) ∧
      ChangesAtMost [.depth] s t := by
  have hpop := s.popReturn_of_pos h
  exact ⟨_, exec_ret_of_pop hpop, rfl, rfl, ((ChangesAtMost.refl _ s).popReturn (by simp) hpop).setPc _⟩

theorem exec_call_of_room (nnn : Addr) (h : s.sp.val < 16) :
    ∃ t, exec (.call nnn) s = .next t ∧ t.sp.val = s.sp.val + 1 ∧ t.pc = addrOperand nnn ∧
      t.stack = s.stack.set s.sp.val (s.pc + 2) ∧ ChangesAtMost [.stack, .depth] s t := by
  have hpush := s.pushReturn_of_room (s.pc + 2) h
  exact ⟨_, exec_call_of_push nnn hpush, rfl, rfl, rfl,
    ((ChangesAtMost.refl _ s).pushReturn (by simp) (by simp) hpush).setPc _⟩

end Stack

/-! ## The statements -/

/-- Settles O16: a pop of an empty stack fails, and any other writes the depth only. -/
theorem retPopsTheReturnAddress : Obligations.RetPopsTheReturnAddress := by
  intro s
  refine ⟨fun x => decodesTo_wordXNN 0 rfl (by simp [decodeWord, decodeClass0]), exec_ret_of_empty, fun hsp => ?_⟩
  obtain ⟨t, ht, hdepth, hpc, hc⟩ := exec_ret_of_pos hsp
  exact ⟨t, ht, hdepth, hpc, hc .stack (by simp), (hc.mono (by simp)).keepsAllButStack (ws := [])⟩

/-- Settles O17: JP writes pc only. -/
theorem jpGoesToItsAddress : Obligations.JpGoesToItsAddress := fun nnn _ =>
  ⟨decodesTo_wordNNN 1 rfl (decodeWord_encode (i := .jp nnn) rfl), _, rfl, addrOperand_toNat nnn,
    onlyRegs_of_exec (i := .jp nnn) rfl rfl⟩

/-- Settles O18: a push on a full stack fails, and any other writes the depth and one entry. -/
theorem callPushesTheNextAddress : Obligations.CallPushesTheNextAddress := by
  intro nnn s
  refine ⟨decodesTo_wordNNN 2 rfl (decodeWord_encode (i := .call nnn) rfl), exec_call_of_full nnn, fun hsp => ?_⟩
  obtain ⟨t, ht, hdepth, hpc, hstack, hc⟩ := exec_call_of_room nnn hsp
  refine ⟨t, ht, hdepth, by rw [hpc, addrOperand_toNat], ?_, fun k hk hne => ?_, hc.keepsAllButStack (ws := [])⟩
  · simp [hstack]
  · simp [hstack, hne.symm]

/-- Settles O19: both are skips, on the comparison and on its negation. -/
theorem skipsComparingWithImmediate : Obligations.SkipsComparingWithImmediate := fun x nn _ =>
  ⟨decodesTo_wordXNN 3 rfl (decodeWord_encode (i := .se x nn) rfl),
    decodesTo_wordXNN 4 rfl (decodeWord_encode (i := .sne x nn) rfl),
    exec_skip rfl beq_iff_eq, exec_skip rfl bne_iff_ne⟩

/-- Settles O20: both are skips, and the decoder reads no bit of n in classes 5 and 9. -/
theorem skipsComparingRegisters : Obligations.SkipsComparingRegisters := fun _ _ n _ =>
  ⟨decodesTo_wordXYN 5 n rfl (by simp [decodeWord]), decodesTo_wordXYN 9 n rfl (by simp [decodeWord]),
    exec_skip rfl beq_iff_eq, exec_skip rfl bne_iff_ne⟩

/-- Settles O21: the sum of the address and V0 does not wrap, and JP V0 writes pc only. -/
theorem jpV0AddsV0 : Obligations.JpV0AddsV0 := by
  intro nnn s
  have hsum := addrOperand_add_regWord_toNat (s := s) nnn 0
  have hnnn := nnn.isLt
  have hv0 := (s.reg 0).isLt
  refine ⟨decodesTo_wordNNN 0xB rfl (decodeWord_encode (i := .jpV0 nnn) rfl), _, rfl, hsum, ?_,
    onlyRegs_of_exec (i := .jpV0 nnn) rfl rfl⟩
  rw [State.setPc_pc, hsum]
  omega

/-- Settles O22: RET pops the entry that CALL pushed, which brings the depth back. -/
theorem callThenRetReturnsAfterTheCall : Obligations.CallThenRetReturnsAfterTheCall := by
  intro nnn s hsp
  obtain ⟨t, ht, htsp, -, htstack, htc⟩ := exec_call_of_room nnn hsp
  obtain ⟨u, hu, husp, hupc, huc⟩ := exec_ret_of_pos (s := t) (by omega)
  have hustack : u.stack = t.stack := huc .stack (by simp)
  have hdepth : u.sp = s.sp := Fin.ext (by omega)
  obtain ⟨hregs, hi, htimers, hmem, hscreen, hhost, horacles⟩ :=
    (htc.trans (huc.mono (by simp))).keepsAllButStack (ws := [])
  refine ⟨t, u, ht, hu, ?_, hdepth, ⟨hregs, hi, ⟨rfl, hdepth⟩, htimers, hmem, hscreen, hhost, horacles⟩,
    fun k hk hne => ?_⟩
  · simp [hupc, htstack, htsp]
  · simp [hustack, htstack, hne.symm]

end Sys2Proof.Machine

/-! Proofs: register arithmetic, logic and random (O23 to O31). Two executor shapes carry the family: the write
of one register, and FlagOp. Each shape is told once, by what it leaves in the registers and what it keeps; an
instruction then adds only what its byte functions compute, as numbers. -/

namespace Sys2Proof.Machine

/-! ## One register written (rule R181 to rule R186, rule R192) -/

theorem setReg_advance_onlyRegs (s : State) (x : RegIdx) (b : Byte) :
    ChangesOnlyRegs [x] s (s.setReg x b).advance :=
  ((ChangesAtMost.refl _ s).setReg (by simp) b).advance.onlyRegs

theorem State.reg_setReg_advance_self (s : State) (x : RegIdx) (b : Byte) :
    (s.setReg x b).advance.reg x = b := by simp

/-! ## The flags and results as numbers (rule R187 to rule R191) -/

/-- A function of two bytes computes, on their numbers, a function of numbers. -/
def ComputesAs (f : Byte → Byte → Byte) (g : Nat → Nat → Nat) : Prop :=
  ∀ a b : Byte, (f a b).toNat = g a.toNat b.toNat

theorem addFlag_computesAs : ComputesAs addFlag fun a b => if a + b > 255 then 1 else 0 := fun a b => by
  simp [addFlag, flagByte_toNat]

theorem subFlag_computesAs : ComputesAs subFlag fun a b => if b > a then 1 else 0 := fun a b => by
  simp [subFlag, flagByte_toNat]

theorem subnFlag_computesAs : ComputesAs subnFlag fun a b => if a > b then 0 else 1 := fun a b => by
  by_cases h : a.toNat > b.toNat <;> simp [subnFlag, flagByte, h]

theorem shrFlag_computesAs : ComputesAs shrFlag fun a _ => a % 2 := fun a b => by
  rw [shrFlag, flagByte_toNat, ← BitVec.testBit_toNat, Nat.testBit_zero]
  rcases Nat.mod_two_eq_zero_or_one a.toNat with h | h <;> simp [h]

/-- A byte has no bit of its low nibble exactly when its number is a multiple of 16. -/
theorem and_lowNibble_eq_zero (a : Byte) : a &&& 15#8 = 0#8 ↔ a.toNat % 16 = 0 := by
  have hand : (a &&& 15#8).toNat = a.toNat % 16 := Nat.and_two_pow_sub_one_eq_mod a.toNat 4
  rw [← hand, BitVec.toNat_eq, BitVec.toNat_ofNat, Nat.zero_mod]

theorem shlFlag_computesAs (which : ShlFlag) : ComputesAs (shlFlag which)
    fun a _ => if which = .msb then a / 128 else if a % 16 ≠ 0 then 1 else 0 := fun a b => by
  cases which with
  | msb =>
    have ha := a.isLt
    have hbit : a.toNat / 128 = 0 ∨ a.toNat / 128 = 1 := by omega
    simp only [shlFlag, flagByte_toNat, ← BitVec.testBit_toNat, Nat.testBit_eq_decide_div_mod_eq]
    rcases hbit with h | h <;> simp [h]
  | lowNibble => simp [shlFlag, flagByte_toNat, and_lowNibble_eq_zero]

/-! ## FlagOp (rule R180) -/

section FlagOp

variable (s : State) {fl res : Byte → Byte → Byte} {flNat resNat : Nat → Nat → Nat} (x y : RegIdx)

/-- VF and VX after FlagOp, in each of the three orders, X and Y being F or not. -/
theorem flagOp_flagTable (hfl : ComputesAs fl flNat) (hres : ComputesAs res resNat) :
    FlagTable flNat resNat x y s (s.flagOp fl res x y).advance := by
  unfold FlagTable State.flagOp
  by_cases hx : x = vf
  · subst hx
    cases s.cfg.flagOrder with
    | snapshotFlagFirst => simp [hres _ _]
    | snapshotFlagLast => simp [hfl _ _]
    | sequential => by_cases hy : y = vf <;> simp [hy, hres _ _, hfl _ _]
  · have hvf : vf ≠ x := Ne.symm hx
    cases s.cfg.flagOrder with
    | snapshotFlagFirst => simp [hx, hvf, hfl _ _, hres _ _]
    | snapshotFlagLast => simp [hx, hfl _ _, hres _ _]
    | sequential => by_cases hy : y = vf <;> simp [hx, hvf, hy, hres _ _, hfl _ _]

theorem flagOp_advance_spec (hfl : ComputesAs fl flNat) (hres : ComputesAs res resNat) :
    (s.flagOp fl res x y).advance.pc = s.pc + 2 ∧
      ChangesOnlyRegs [x, vf] s (s.flagOp fl res x y).advance ∧
      FlagTable flNat resNat x y s (s.flagOp fl res x y).advance :=
  ⟨by simp, ((ChangesAtMost.refl _ s).flagOp (by simp) (by simp) fl res y).advance.onlyRegs,
    flagOp_flagTable s x y hfl hres⟩

end FlagOp

/-! ## Another FLAG_ORDER (rule R10) -/

/-- The state of a machine whose parameter FLAG_ORDER is another. -/
def State.withFlagOrder (s : State) (o : FlagOrder) : State :=
  { s with cfg := { s.cfg with flagOrder := o } }

/-- Away from VF, FlagOp writes the same registers in every order. -/
theorem State.withFlagOrder_flagOp (s : State) (o : FlagOrder) (fl res : Byte → Byte → Byte) {x y : RegIdx}
    (hx : x ≠ vf) (hy : y ≠ vf) :
    (s.withFlagOrder o).flagOp fl res x y = (s.flagOp fl res x y).withFlagOrder o := by
  have hv : ((s.withFlagOrder o).flagOp fl res x y).v = (s.flagOp fl res x y).v := State.v_ext fun r => by
    rw [State.flagOp_reg _ _ _ _ _ _ hx hy, State.flagOp_reg _ _ _ _ _ _ hx hy]
    rfl
  rw [State.flagOp_eq, hv, s.flagOp_eq]
  rfl

/-- The six flag instructions are FlagOp, with functions that do not depend on FLAG_ORDER. -/
theorem exec_flagInstr {x y : RegIdx} {i : Instr} (s : State)
    (hi : i ∈ [Instr.addR x y, .sub x y, .shr x y, .subn x y, .shl x y, .shlE x y]) :
    ∃ fl res, exec i s = .next (s.flagOp fl res x y).advance ∧
      ∀ o, exec i (s.withFlagOrder o) = .next ((s.withFlagOrder o).flagOp fl res x y).advance := by
  simp only [List.mem_cons, List.not_mem_nil, or_false] at hi
  obtain rfl | rfl | rfl | rfl | rfl | rfl := hi <;> exact ⟨_, _, rfl, fun _ => rfl⟩

/-! ## The second encoding of SHL (rule R9) -/

theorem ofNat_wordXYN {m : Nat} (c : BitVec 4) (d : Fin 16) {x y n : Fin 16}
    (hm : m + n.val = c.toNat * 4096 + d.val) : BitVec.ofNat 16 (wordXYN m x y n) = packXYN c x y d := by
  have h : wordXYN m x y n = (packXYN c x y d).toNat := by
    rw [packXYN_toNat, wordXYN]
    omega
  rw [h, BitVec.ofNat_toNat, BitVec.setWidth_eq]

/-- 8XYE decodes exactly where SHL_ALIAS_E is true. -/
theorem decodesTo_shlE_iff (cfg : Config) (x y : RegIdx) :
    cfg.shlAliasE = true ↔ DecodesTo cfg (wordXYN 0x800E x y 0) (.shlE x y) := by
  rw [DecodesTo, ofNat_wordXYN (m := 0x800E) 8 0xE rfl]
  cases h : cfg.shlAliasE <;> simp [decodeWord, decodeClass8, h]

/-! ## The statements -/

/-- Settles O24: each is one register write, by the bits of the byte written. -/
theorem copyAndLogic : Obligations.CopyAndLogic := fun x y s =>
  ⟨decodesTo_wordXYN 8 0 rfl (decodeWord_encode (i := .ldR x y) rfl),
    decodesTo_wordXYN 8 1 rfl (decodeWord_encode (i := .orR x y) rfl),
    decodesTo_wordXYN 8 2 rfl (decodeWord_encode (i := .andR x y) rfl),
    decodesTo_wordXYN 8 3 rfl (decodeWord_encode (i := .xorR x y) rfl),
    ⟨_, rfl, s.reg_setReg_advance_self x _, rfl, setReg_advance_onlyRegs s x _⟩,
    ⟨_, rfl, rfl, setReg_advance_onlyRegs s x _, fun k => by simp⟩,
    ⟨_, rfl, rfl, setReg_advance_onlyRegs s x _, fun k => by simp⟩,
    ⟨_, rfl, rfl, setReg_advance_onlyRegs s x _, fun k => by simp⟩⟩

/-- Settles O25: ADD is FlagOp with the carry and the sum. -/
theorem addSetsCarry : Obligations.AddSetsCarry := fun x y s =>
  ⟨decodesTo_wordXYN 8 4 rfl (decodeWord_encode (i := .addR x y) rfl), _, rfl,
    flagOp_advance_spec s x y addFlag_computesAs addResult_toNat⟩

/-- Settles O26: SUB is FlagOp with the borrow and the difference. -/
theorem subSetsBorrow : Obligations.SubSetsBorrow := fun x y s =>
  ⟨decodesTo_wordXYN 8 5 rfl (decodeWord_encode (i := .sub x y) rfl), _, rfl,
    flagOp_advance_spec s x y subFlag_computesAs subResult_toNat⟩

/-- Settles O27: SHR is FlagOp with bit 0 and the half. -/
theorem shrShiftsRightByOne : Obligations.ShrShiftsRightByOne := fun x y s =>
  ⟨decodesTo_wordXYN 8 6 rfl (decodeWord_encode (i := .shr x y) rfl), _, rfl,
    flagOp_advance_spec s x y shrFlag_computesAs shrResult_toNat⟩

/-- Settles O28: SUBN is FlagOp with no borrow and the difference the other way round. -/
theorem subnSetsNotBorrow : Obligations.SubnSetsNotBorrow := fun x y s =>
  ⟨decodesTo_wordXYN 8 7 rfl (decodeWord_encode (i := .subn x y) rfl), _, rfl,
    flagOp_advance_spec s x y subnFlag_computesAs subnResult_toNat⟩

/-- Settles O29: SHL and SHL.E are one FlagOp, with the flag that SHL_FLAG chooses and the double. -/
theorem shlShiftsLeftByOne : Obligations.ShlShiftsLeftByOne := fun x y s =>
  ⟨decodesTo_wordXYN 8 8 rfl (decodeWord_encode (i := .shl x y) rfl), decodesTo_shlE_iff s.cfg x y, _, rfl, rfl,
    flagOp_advance_spec s x y (shlFlag_computesAs s.cfg.shlFlag) shlResult_toNat⟩

/-- Settles O30: both runs are FlagOp with the same functions, which commutes with the choice of FLAG_ORDER. -/
theorem flagOrdersAgreeAwayFromVF : Obligations.FlagOrdersAgreeAwayFromVF := by
  intro x y i s t u o hx hy hi ht hu
  obtain ⟨fl, res, hs, ho⟩ := exec_flagInstr s hi
  cases hs.symm.trans ht
  cases (ho o).symm.trans hu
  rw [State.withFlagOrder_flagOp s o fl res hx hy, s.flagOp_eq]
  rfl

/-- Settles O31: RND is one register write in the state that has drawn one byte more. -/
theorem rndMasksOneDrawnByte : Obligations.RndMasksOneDrawnByte := by
  intro x nn s
  obtain ⟨hregs, hi, hstack, htimers, hmem, hscreen, hhost, hdraws, hpicks⟩ :=
    setReg_advance_onlyRegs s.countDraw x (nn &&& s.randomByte)
  exact ⟨decodesTo_wordXNN 0xC rfl (decodeWord_encode (i := .rnd x nn) rfl), _, rfl, rfl,
    fun k => by simp [State.randomByte], hdraws, hpicks, hregs, hi, hstack, htimers, hmem, hscreen, hhost⟩

/-- Settles O23: both are one register write, the second of the sum modulo 256. -/
theorem loadAndAddImmediate : Obligations.LoadAndAddImmediate := fun x nn s =>
  ⟨decodesTo_wordXNN 6 rfl (decodeWord_encode (i := .ldI8 x nn) rfl),
    decodesTo_wordXNN 7 rfl (decodeWord_encode (i := .addI8 x nn) rfl),
    ⟨_, rfl, s.reg_setReg_advance_self x nn, rfl, setReg_advance_onlyRegs s x nn⟩,
    ⟨_, rfl, (congrArg BitVec.toNat (s.reg_setReg_advance_self x _)).trans (addResult_toNat _ nn), rfl,
      setReg_advance_onlyRegs s x _⟩⟩

end Sys2Proof.Machine

/-! Proofs: index register and memory transfer (O32 to O36). A word of this family is told by its last byte; the two
stores are told once, by the bytes they store; and the load is told by what every register holds after it. -/

namespace Sys2Proof.Machine

/-! ## I written (rule R230 to rule R232) -/

theorem setI_advance_onlyRegs (s : State) (w : Word) : ChangesOnlyRegs [] (s.setI w) (s.setI w).advance :=
  (ChangesAtMost.refl [] (s.setI w)).advance.onlyRegs (ws := [])

/-- ADD I, VX wraps at 65536 (rule R231). -/
theorem State.i_add_regWord_toNat (s : State) (x : RegIdx) :
    (s.i + s.regWord x).toNat = (s.i.toNat + (s.reg x).toNat) % 65536 := by
  rw [BitVec.toNat_add, State.regWord_toNat]

/-- The address of a glyph does not wrap: VX is at most 0xFF (rule R232). -/
theorem State.glyphAddr_toNat (s : State) (x : RegIdx) : (s.glyphAddr x).toNat = (s.reg x).toNat * 5 := by
  have hlt := (s.reg x).isLt
  have hfive : (5 : Word).toNat = 5 := rfl
  rw [State.glyphAddr, BitVec.toNat_mul, State.regWord_toNat, hfive, Nat.mod_eq_of_lt (by omega)]

/-! ## The bytes stored (rule R233, rule R234) -/

theorem State.byteAfterStore_inside (s : State) (a : Nat) {bs : List Byte} {k : Nat} (h : k < bs.length) :
    s.byteAfterStore a bs (a + k) = bs[k] := by
  rw [State.byteAfterStore, if_pos (by omega), Nat.add_sub_cancel_left, List.getD_eq_getElem _ _ h]

theorem State.byteAfterStore_outside (s : State) {a b : Nat} {bs : List Byte}
    (h : ¬ (a ≤ b ∧ b < a + bs.length)) : s.byteAfterStore a bs b = s.readByte b := if_neg h

@[simp] theorem bcdDigits_length (b : Byte) : (bcdDigits b).length = 3 := rfl

/-- FX55 stores register r at offset r. -/
theorem State.byteAfterStore_regsUpTo (s : State) (a : Nat) {x r : RegIdx} (h : r ≤ x) :
    s.byteAfterStore a (s.regsUpTo x) (a + r.val) = s.reg r := by
  have hr : r.val < (s.regsUpTo x).length := by
    rw [State.regsUpTo_length]
    exact Nat.lt_succ_of_le h
  rw [s.byteAfterStore_inside a hr, State.regsUpTo_getElem]

/-- Where memory and pc only are written, everything else is kept. -/
theorem ChangesAtMost.keepsAllButMemory {s t : State} (h : ChangesAtMost [.memory] s t) :
    t.i = s.i ∧ KeepsRegsExcept [] s t ∧ KeepsStack s t ∧ KeepsTimers s t ∧ KeepsScreen s t ∧
      KeepsHostState s t ∧ KeepsOracles s t := by
  obtain ⟨hhalted, herr⟩ := h .halt (by simp)
  exact ⟨h .index (by simp), fun r _ => h (.reg r) (by simp), ⟨h .stack (by simp), h .depth (by simp)⟩,
    ⟨h .delay (by simp), h .sound (by simp)⟩, h .screen (by simp),
    ⟨h .keys (by simp), hhalted, herr, h .params (by simp)⟩, h .draws (by simp), h .picks (by simp)⟩

/-! ## FX33 and FX55, by whether their bytes fit (rule R76) -/

/-- The instruction stores the bytes from I on, goes on, and writes nothing else. -/
def StoresAtIndex (i : Instr) (bs : List Byte) (s : State) : Prop :=
  ∃ t, exec i s = .next t ∧ (∀ b, t.readByte b = s.byteAfterStore s.indexAddr bs b) ∧ t.pc = s.pc + 2 ∧
    ChangesAtMost [.memory] s t

section Store

variable {x : RegIdx} {s : State} {i : Instr} {bs : List Byte}
  (hi : (i, bs) ∈ [(Instr.ldB x, bcdDigits (s.reg x)), (Instr.ldStore x, s.regsUpTo x)])

include hi

theorem exec_store_out_of_range (hne : bs ≠ []) (hr : 0x1000 < s.indexAddr + bs.length) :
    exec i s = raiseFatal .memBounds s := by
  have hnone := (s.writeBytes_eq_none s.indexAddr bs).mpr ⟨hne, hr⟩
  simp only [List.mem_cons, Prod.mk.injEq, List.not_mem_nil, or_false] at hi
  obtain ⟨rfl, rfl⟩ | ⟨rfl, rfl⟩ := hi
  · rw [exec, execLdB, hnone]
  · rw [exec, execLdStore, hnone]

theorem storesAtIndex_of_fits (hr : s.indexAddr + bs.length ≤ 0x1000) : StoresAtIndex i bs s := by
  obtain ⟨u, hu, hexec⟩ := exec_store_in_range hi hr
  exact ⟨_, hexec, fun b => (u.advance_readByte b).trans (State.readByte_of_writeBytes hu b),
    by rw [State.advance_pc, State.writeBytes_pc hu], ((ChangesAtMost.refl _ s).writeBytes (by simp) hu).advance⟩

end Store

/-- FX33 in range (rule R233). -/
theorem ldB_storesAtIndex {x : RegIdx} {s : State} (hr : s.indexAddr + 2 ≤ 0xFFF) :
    StoresAtIndex (.ldB x) (bcdDigits (s.reg x)) s :=
  storesAtIndex_of_fits (x := x) (by simp) (by rw [bcdDigits_length]; omega)

/-- FX55 in range (rule R234). -/
theorem ldStore_storesAtIndex {x : RegIdx} {s : State} (hr : s.indexAddr + x.val ≤ 0xFFF) :
    StoresAtIndex (.ldStore x) (s.regsUpTo x) s :=
  storesAtIndex_of_fits (x := x) (by simp) (by rw [State.regsUpTo_length]; omega)

/-! ## FX65, by whether its bytes are there (rule R76, rule R235) -/

section Load

variable {x : RegIdx} {s : State}

theorem exec_ldLoad_out_of_range (hr : 0xFFF < s.indexAddr + x.val) :
    exec (.ldLoad x) s = raiseFatal .memBounds s := by
  rw [exec, execLdLoad, State.readBytes_eq, if_neg (by omega)]

theorem exec_ldLoad_in_range (hr : s.indexAddr + x.val ≤ 0xFFF) :
    exec (.ldLoad x) s =
      .next (s.setRegsFrom 0 ((List.range (x.val + 1)).map fun k => s.readByte (s.indexAddr + k))).advance := by
  rw [exec, execLdLoad, State.readBytes_eq, if_pos (by omega)]

theorem exec_ldLoad_spec (hr : s.indexAddr + x.val ≤ 0xFFF) :
    ∃ t, exec (.ldLoad x) s = .next t ∧
      (∀ r, t.reg r = if r ≤ x then s.readByte (s.indexAddr + r.val) else s.reg r) ∧ t.pc = s.pc + 2 ∧
      ChangesAtMost ((writtenRegs (.ldLoad x)).map .reg) s t := by
  refine ⟨_, exec_ldLoad_in_range hr, fun r => ?_, by simp,
    ((ChangesAtMost.refl _ s).setRegsFrom _ _ fun r hlt => ?_).advance⟩
  · rw [State.advance_reg, State.setRegsFrom_reg]
    simp
  · simpa [writtenRegs, Nat.lt_succ_iff] using hlt

end Load

/-! ## The statements -/

/-- Settles O32: each is one write of I, by a word whose number does not wrap except in the sum. -/
theorem indexInstructionsSetI : Obligations.IndexInstructionsSetI := fun nnn x s =>
  ⟨decodesTo_wordNNN 0xA rfl (decodeWord_encode (i := .ldIdx nnn) rfl),
    decodesTo_wordXNN 0xF rfl (decodeWord_encode (i := .addI x) rfl),
    decodesTo_wordXNN 0xF rfl (decodeWord_encode (i := .ldF x) rfl),
    ⟨_, rfl, addrOperand_toNat nnn, rfl, setI_advance_onlyRegs s _⟩,
    ⟨_, rfl, s.i_add_regWord_toNat x, rfl, setI_advance_onlyRegs s _⟩,
    ⟨_, rfl, s.glyphAddr_toNat x, rfl, setI_advance_onlyRegs s _⟩⟩

/-- Settles O33: FX33 stores three bytes, each of which holds its digit without loss. -/
theorem bcdStoresThreeDigits : Obligations.BcdStoresThreeDigits := by
  intro x s
  have hlen := bcdDigits_length (s.reg x)
  have hx := (s.reg x).isLt
  refine ⟨decodesTo_wordXNN 0xF rfl (decodeWord_encode (i := .ldB x) rfl),
    fun hr => ?_, fun hr => ?_⟩
  · have hne : bcdDigits (s.reg x) ≠ [] := List.cons_ne_nil _ _
    exact exec_store_out_of_range (x := x) (by simp) hne (by omega)
  obtain ⟨t, ht, hread, hpc, hc⟩ := ldB_storesAtIndex hr
  have hdigit : ∀ k (hk : k < 3), t.readByte (s.indexAddr + k) = (bcdDigits (s.reg x))[k] :=
    fun k hk => (hread _).trans (s.byteAfterStore_inside _ hk)
  refine ⟨t, ht, ?_, ?_, ?_, fun b hb => (hread b).trans (s.byteAfterStore_outside hb), hpc, hc.keepsAllButMemory⟩
  · rw [← Nat.add_zero s.indexAddr, hdigit 0 (by omega)]
    exact Nat.mod_eq_of_lt (by omega)
  · rw [hdigit 1 (by omega)]
    exact Nat.mod_eq_of_lt (by omega)
  · rw [hdigit 2 (by omega)]
    exact Nat.mod_eq_of_lt (by omega)

/-- Settles O34: FX55 stores X + 1 bytes, of which byte r is Vr. -/
theorem storeWritesRegistersFromI : Obligations.StoreWritesRegistersFromI := by
  intro x s
  have hlen := s.regsUpTo_length x
  refine ⟨decodesTo_wordXNN 0xF rfl (decodeWord_encode (i := .ldStore x) rfl), fun hr => ?_, fun hr => ?_⟩
  · have hne : s.regsUpTo x ≠ [] := List.ne_nil_of_length_pos (by omega)
    exact exec_store_out_of_range (x := x) (by simp) hne (by omega)
  · obtain ⟨t, ht, hread, hpc, hc⟩ := ldStore_storesAtIndex hr
    exact ⟨t, ht, fun r hrx => (hread _).trans (s.byteAfterStore_regsUpTo _ hrx),
      fun b hb => (hread b).trans (s.byteAfterStore_outside (by rwa [hlen])), hpc, hc.keepsAllButMemory⟩

/-- Settles O35: FX65 writes the registers up to VX, and pc. -/
theorem loadReadsRegistersFromI : Obligations.LoadReadsRegistersFromI := by
  intro x s
  refine ⟨decodesTo_wordXNN 0xF rfl (decodeWord_encode (i := .ldLoad x) rfl), exec_ldLoad_out_of_range,
    fun hr => ?_⟩
  obtain ⟨t, ht, hreg, hpc, hc⟩ := exec_ldLoad_spec hr
  obtain ⟨-, hidx, hstack, htimers, hmem, hrest⟩ := hc.onlyRegs
  exact ⟨t, ht, fun r hrx => by rw [hreg, if_pos hrx], fun r hxr => by rw [hreg, if_neg (Fin.not_le.mpr hxr)],
    hpc, hidx, hmem, hstack, htimers, hrest⟩

/-- Settles O36: I is unchanged by the store, so the load reads the bytes stored. -/
theorem storeThenLoadRestoresRegisters : Obligations.StoreThenLoadRestoresRegisters := by
  intro x s t v hr hst
  obtain ⟨t', ht', hread, -, hc⟩ := ldStore_storesAtIndex (x := x) (s := s) hr
  cases hst.symm.trans ht'
  have hidx : State.indexAddr { t with v := v } = s.indexAddr := congrArg BitVec.toNat (hc .index (by simp))
  obtain ⟨u, hu, hreg, -⟩ := exec_ldLoad_spec (x := x) (s := { t with v := v }) (by rw [hidx]; exact hr)
  refine ⟨u, hu, fun r hrx => ?_⟩
  rw [hreg, if_pos hrx, hidx]
  exact (hread _).trans (s.byteAfterStore_regsUpTo _ hrx)

end Sys2Proof.Machine

/-! Proofs: the framebuffer (O39, O40, O41, O51). A draw is the list of the pixels it hits: what a list of hits
leaves in each pixel and in the collision flag is told by induction on it, and a draw in range is one such list.
Which instructions and commands write the screen is read off the footprints. -/

namespace Sys2Proof.Machine

/-! ## What a list of hits leaves (rule R262) -/

/-- The first hit of a list changes the parity of its own pixel. -/
theorem hitOddly_cons (p q : Nat × Nat) (hits : List (Nat × Nat)) :
    hitOddly (p :: hits) q = (decide (q = p) != hitOddly hits q) := by
  by_cases hqp : q = p
  · subst hqp
    rcases Nat.mod_two_eq_zero_or_one (hits.count q) with h | h <;> simp [hitOddly, Nat.add_mod, h]
  · simp [hitOddly, List.count_cons_of_ne (Ne.symm hqp), hqp]

/-- A pixel that no hit falls on. -/
theorem hitOddly_of_notMem {hits : List (Nat × Nat)} {p : Nat × Nat} (h : p ∉ hits) : hitOddly hits p = false := by
  simp [hitOddly, List.count_eq_zero_of_not_mem h]

/-- A pixel that one hit falls on. -/
theorem hitOddly_of_mem {hits : List (Nat × Nat)} (hnd : hits.Nodup) {p : Nat × Nat} (h : p ∈ hits) :
    hitOddly hits p = true := by
  simp [hitOddly, List.count_eq_one_of_mem hnd h]

/-- Every hit falls on the grid of s, which has the size that s's parameters say (rule R41, rule R260). -/
def HitsGrid (s : State) (hits : List (Nat × Nat)) : Prop :=
  Framebuffer.wf s.cfg.screenW s.cfg.screenH s.fb ∧ ∀ p ∈ hits, p.1 < s.cfg.screenW ∧ p.2 < s.cfg.screenH

/-- s with one pixel flipped. -/
def State.flip (s : State) (p : Nat × Nat) : State := s.setFb (s.fb.toggle p.1 p.2)

theorem HitsGrid.flip {s : State} {p : Nat × Nat} {hits : List (Nat × Nat)} (h : HitsGrid s (p :: hits)) :
    HitsGrid (s.flip p) hits := by
  obtain ⟨hwf, hin⟩ := h
  exact ⟨Framebuffer.wf_toggle hwf _ _, fun q hq => hin q (List.mem_cons_of_mem _ hq)⟩

theorem HitsGrid.pixel_flip {s : State} {p : Nat × Nat} {hits : List (Nat × Nat)} (h : HitsGrid s (p :: hits))
    (q : Nat × Nat) : (s.flip p).pixel q.1 q.2 = (s.pixel q.1 q.2 != decide (q = p)) := by
  obtain ⟨hwf, hin⟩ := h
  obtain ⟨hx, hy⟩ := hin p List.mem_cons_self
  exact Framebuffer.get_toggle hwf hx hy q.1 q.2

/-- The framebuffer and the collision flag after hits on the screen of s. -/
def State.hits (s : State) (hits : List (Nat × Nat)) (c : Bool) : Framebuffer × Bool :=
  hits.foldl Framebuffer.hit (s.fb, c)

theorem State.hits_cons (s : State) (p : Nat × Nat) (hits : List (Nat × Nat)) (c : Bool) :
    s.hits (p :: hits) c = (s.flip p).hits hits (c || s.pixel p.1 p.2) := rfl

/-- A pixel is flipped once for every hit on it. -/
theorem State.get_hits {s : State} {hits : List (Nat × Nat)} (h : HitsGrid s hits) (c : Bool) (q : Nat × Nat) :
    (s.hits hits c).1.get q.1 q.2 = (s.pixel q.1 q.2 != hitOddly hits q) := by
  induction hits generalizing s c with
  | nil => exact (Bool.bne_false _).symm
  | cons p hits ih => rw [State.hits_cons, ih h.flip, h.pixel_flip, hitOddly_cons, Bool.bne_assoc]

/-- The first hit collides, or a later one does on the screen that the first leaves. -/
theorem collides_cons {s : State} {p : Nat × Nat} {hits : List (Nat × Nat)} (h : HitsGrid s (p :: hits)) :
    Collides s (p :: hits) ↔ s.pixel p.1 p.2 = true ∨ Collides (s.flip p) hits := by
  have hlater : ∀ (j : Nat) (q : Nat × Nat), (s.pixel q.1 q.2 != hitOddly ((p :: hits).take (j + 1)) q) =
      ((s.flip p).pixel q.1 q.2 != hitOddly (hits.take j) q) := fun j q => by
    rw [List.take_succ_cons, hitOddly_cons, h.pixel_flip, Bool.bne_assoc]
  constructor
  · rintro ⟨j, hj, hcol⟩
    cases j with
    | zero => exact .inl (by simpa [hitOddly] using hcol)
    | succ j => exact .inr ⟨j, Nat.lt_of_succ_lt_succ hj, (hlater j _).symm.trans hcol⟩
  · rintro (hp | ⟨j, hj, hcol⟩)
    · exact ⟨0, Nat.succ_pos _, by simpa [hitOddly] using hp⟩
    · exact ⟨j + 1, Nat.succ_lt_succ hj, (hlater j _).trans hcol⟩

/-- The flag notes the collisions, beside what it held (rule R263). -/
theorem State.hits_collision {s : State} {hits : List (Nat × Nat)} (h : HitsGrid s hits) (c : Bool) :
    (s.hits hits c).2 = true ↔ c = true ∨ Collides s hits := by
  induction hits generalizing s c with
  | nil => simp [State.hits, Collides]
  | cons p hits ih => rw [State.hits_cons, ih h.flip, collides_cons h, Bool.or_eq_true, or_assoc]

/-- The same hits again take each flip back. -/
theorem Framebuffer.hits_hits (hits : List (Nat × Nat)) (fb : Framebuffer) (c d : Bool) :
    (hits.foldl Framebuffer.hit ((hits.foldl Framebuffer.hit (fb, c)).1, d)).1 = fb := by
  induction hits generalizing fb c d with
  | nil => rfl
  | cons p hits ih =>
    simp only [List.foldl_cons, Framebuffer.hit]
    rw [Framebuffer.hits_toggle hits fb _ c, Framebuffer.toggle_toggle, ih]

/-- Where no pixel is hit twice, a collision is a hit on a pixel that was set before. -/
theorem collides_iff_of_nodup {s : State} {hits : List (Nat × Nat)} (hnd : hits.Nodup) :
    Collides s hits ↔ ∃ p ∈ hits, s.pixel p.1 p.2 = true := by
  have hfirst : ∀ (j : Nat) (h : j < hits.length), hitOddly (hits.take j) hits[j] = false := fun j h =>
    hitOddly_of_notMem fun hmem => by
      obtain ⟨k, hk, heq⟩ := List.mem_take_iff_getElem.mp hmem
      have hkj : k = j := hnd.getElem_inj_iff.mp heq
      omega
  simp only [Collides, hfirst, Bool.bne_false, List.exists_mem_iff_getElem]

/-! ## The hits of a sprite (rule R260) -/

/-- Offsets below the size stay apart modulo the size. -/
theorem eq_of_add_mod_eq {w x0 a b : Nat} (ha : a < w) (hb : b < w) (h : (x0 + a) % w = (x0 + b) % w) : a = b := by
  have hmod : a % w = b % w := Nat.ModEq.add_left_cancel' x0 h
  rwa [Nat.mod_eq_of_lt ha, Nat.mod_eq_of_lt hb] at hmod

/-- No sprite that fits the framebuffer hits a pixel twice. -/
theorem spriteHits_nodup {w h : Nat} (x0 y0 : Nat) {rows : List Byte} (hw : 8 ≤ w) (hh : rows.length ≤ h) :
    (spriteHits w h x0 y0 rows).Nodup := by
  refine List.nodup_flatMap.mpr ⟨fun row _ => ?_, List.nodup_range.imp_of_mem fun {r1 r2} h1 h2 hne => ?_⟩
  · refine List.Nodup.map_on (fun a ha b hb hab => ?_) (List.nodup_range.filter _)
    simp only [List.mem_filter, List.mem_range] at ha hb
    exact eq_of_add_mod_eq (ha.1.trans_le hw) (hb.1.trans_le hw) (congrArg Prod.fst hab)
  · simp only [List.mem_range] at h1 h2
    intro p hp1 hp2
    simp only [List.mem_map] at hp1 hp2
    obtain ⟨_, -, rfl⟩ := hp1
    obtain ⟨_, -, heq⟩ := hp2
    exact hne (eq_of_add_mod_eq (h1.trans_le hh) (h2.trans_le hh) (congrArg Prod.snd heq).symm)

/-- A sprite's hits are on the grid. -/
theorem drawnPixels_hitsGrid {s : State} (hcfg : s.cfg.wf) (hfb : Framebuffer.wf s.cfg.screenW s.cfg.screenH s.fb)
    (x y : RegIdx) (n : Fin 16) : HitsGrid s (s.drawnPixels x y n) :=
  ⟨hfb, spriteHits_inside hcfg.1 hcfg.2 _ _ _⟩

/-! ## DXYN, by whether its bytes are there (rule R76) -/

/-- s after a draw that hits these pixels (rule R262). -/
def State.afterHits (s : State) (hits : List (Nat × Nat)) : State :=
  ((s.setFb (s.hits hits false).1).setReg vf (flagByte (s.hits hits false).2)).advance

section Draw

variable {x y : RegIdx} {n : Fin 16} {s : State}

theorem exec_drw_out_of_range (hn : 0 < n.val) (hr : 0xFFF < s.indexAddr + n.val - 1) :
    exec (.drw x y n) s = raiseFatal .memBounds s := by
  rw [exec, execDrw, State.readBytes_eq, if_neg (by omega)]

theorem exec_drw_in_range (hr : n.val = 0 ∨ s.indexAddr + n.val - 1 ≤ 0xFFF) :
    exec (.drw x y n) s = .next (s.afterHits (s.drawnPixels x y n)) := by
  rw [exec, execDrw, State.readBytes_eq, if_pos (by omega)]
  simp only [State.drawSprite, Framebuffer.drawRows_eq_hits]
  rfl

/-- A draw writes neither I nor memory, and VF is the only register it writes (rule R33). -/
theorem State.drawnPixels_afterHits (s : State) (hits : List (Nat × Nat)) (hx : x ≠ vf) (hy : y ≠ vf) :
    (s.afterHits hits).drawnPixels x y n = s.drawnPixels x y n := by
  simp [State.drawnPixels, State.afterHits, hx, hy]

end Draw

/-- VF after a draw is its collision flag (rule R263). -/
theorem State.reg_vf_afterHits {s : State} {hits : List (Nat × Nat)} (h : HitsGrid s hits) :
    ((s.afterHits hits).reg vf = 1 ↔ Collides s hits) ∧ ((s.afterHits hits).reg vf = 0 ↔ ¬ Collides s hits) := by
  have hvf : (s.afterHits hits).reg vf = flagByte (s.hits hits false).2 := by simp [State.afterHits]
  have hcol : (s.hits hits false).2 = true ↔ Collides s hits := by simpa using s.hits_collision h false
  rw [hvf, ← hcol]
  cases (s.hits hits false).2 <;> simp [flagByte]

theorem State.pixel_afterHits {s : State} {hits : List (Nat × Nat)} (h : HitsGrid s hits) (px py : Nat) :
    (s.afterHits hits).pixel px py = (s.pixel px py != hitOddly hits (px, py)) := State.get_hits h false (px, py)

theorem HitsGrid.afterHits {s : State} {hits : List (Nat × Nat)} (h : HitsGrid s hits) :
    HitsGrid (s.afterHits hits) hits := ⟨Framebuffer.wf_hits hits (s.fb, false) h.1, h.2⟩

/-- The same draw again restores the screen. -/
theorem State.fb_afterHits_afterHits (s : State) (hits : List (Nat × Nat)) :
    ((s.afterHits hits).afterHits hits).fb = s.fb := Framebuffer.hits_hits hits s.fb false false

/-- Where no pixel is hit twice, the second draw collides where the first found a pixel unset. -/
theorem collides_afterHits {s : State} {hits : List (Nat × Nat)} (h : HitsGrid s hits) (hnd : hits.Nodup) :
    Collides (s.afterHits hits) hits ↔ ∃ p ∈ hits, s.pixel p.1 p.2 = false := by
  rw [collides_iff_of_nodup hnd]
  refine exists_congr fun p => and_congr_right fun hp => ?_
  rw [State.pixel_afterHits h, hitOddly_of_mem hnd hp, Bool.bne_true, Bool.not_eq_true']

/-! ## Who writes the screen (rule R264) -/

/-- The screen is in the footprints of CLS and DRW only. -/
theorem screen_mem_footprint {i : Instr} :
    .screen ∈ footprint i ↔ i = .cls ∨ ∃ x y n, i = .drw x y n := by
  cases i <;> simp [writtenParts]

/-- A step that fetches neither CLS nor DRW keeps the screen. -/
theorem step_fb {s t : State} (h : step s = .next t)
    (hno : ¬ (s.Fetches .cls ∨ ∃ x y n, s.Fetches (.drw x y n))) : t.fb = s.fb := by
  obtain ⟨u, hu, hsame⟩ := step_changes s
  cases h.symm.trans hu
  refine hsame .screen (by simp) fun i hi hscreen => hno ?_
  obtain rfl | ⟨x, y, n, rfl⟩ := screen_mem_footprint.mp hscreen
  · exact .inl hi
  · exact .inr ⟨x, y, n, hi⟩

@[simp] theorem State.load_fb (s : State) (bs : List Byte) : (s.load bs).fb = s.fb := by
  rw [State.load_eq, State.setMem_fb]

@[simp] theorem State.tickCommand_fb (s : State) : s.tickCommand.fb = s.fb := by
  unfold State.tickCommand
  split <;> rfl

@[simp] theorem State.keyDown_fb (s : State) (k : Nat) : (s.keyDown k).fb = s.fb := by
  rw [State.keyDown_eq, State.setKeys_fb]

@[simp] theorem State.keyUp_fb (s : State) (k : Nat) : (s.keyUp k).fb = s.fb := by
  rw [State.keyUp_eq, State.setKeys_fb]

/-! ## The statements -/

/-- Settles O40: a draw in range is its list of hits, each of which flips one pixel. -/
theorem drwXorsTheSprite : Obligations.DrwXorsTheSprite := by
  intro x y n s
  refine ⟨decodesTo_wordXYN 0xD n rfl (decodeWord_encode (i := .drw x y n) rfl), exec_drw_out_of_range,
    fun hcfg hfb hr => ?_⟩
  have hgrid := drawnPixels_hitsGrid hcfg hfb x y n
  obtain ⟨hone, hzero⟩ := State.reg_vf_afterHits hgrid
  obtain ⟨hwf, -⟩ := hgrid.afterHits
  exact ⟨_, exec_drw_in_range hr, State.pixel_afterHits hgrid, hone.mpr, hzero.mpr, hwf, rfl,
    setReg_advance_onlyRegs (s.setFb _) vf _⟩

/-- Settles O41: the second draw hits the same pixels, since the first writes nothing that says where they are. -/
theorem drawingTwiceRestoresTheScreen : Obligations.DrawingTwiceRestoresTheScreen := by
  intro x y n s hcfg hfb hx hy hr
  have hgrid := drawnPixels_hitsGrid hcfg hfb x y n
  refine ⟨fun hw hh => spriteHits_nodup _ _ hw (by simpa using hh), _, _, exec_drw_in_range hr,
    exec_drw_in_range hr, ?_⟩
  rw [s.drawnPixels_afterHits _ hx hy]
  refine ⟨s.fb_afterHits_afterHits _, fun hnd => ?_⟩
  obtain ⟨hone, hzero⟩ := State.reg_vf_afterHits hgrid.afterHits
  rw [hone, hzero, collides_afterHits hgrid hnd]
  exact ⟨Iff.rfl, by simp⟩

/-- Settles O51: the screen is in the footprints of CLS and DRW only, and of the commands but RESET only STEP
runs an instruction. -/
theorem onlyClsDrwResetChangeTheScreen : Obligations.OnlyClsDrwResetChangeTheScreen := by
  refine ⟨fun i s t h hcls hdrw => changes_of_exec h .screen fun hscreen => ?_, fun c s t h hreset hchange => ?_⟩
  · obtain hi | ⟨x, y, n, hi⟩ := screen_mem_footprint.mp hscreen
    · exact hcls hi
    · exact hdrw x y n hi
  · cases c with
    | reset => exact absurd rfl hreset
    | step => exact ⟨rfl, by_contra fun hno => hchange (step_fb h hno)⟩
    | load | tick | keyDown | keyUp =>
      cases h
      exact absurd (by simp) hchange

/-- Settles O39: CLS writes a clear framebuffer and goes on, and the decoder reads no bit of X in class 0. -/
theorem clsClearsEveryPixel : Obligations.ClsClearsEveryPixel := fun s =>
  ⟨fun x => decodesTo_wordXNN 0 rfl (by simp [decodeWord, decodeClass0]), _, rfl, Framebuffer.get_clear _ _,
    Framebuffer.wf_clear _ _, rfl, (ChangesAtMost.refl [] (s.setFb _)).advance.onlyRegs (ws := [])⟩

end Sys2Proof.Machine

/-! Proofs: keys and timers (O42, O43, O44, O46) and the sound timer (O56). Every executor but that of LD ST, VX
commutes with another sound timer, and that one writes over it; what a step does is then read off its
instruction and the tick that may follow. -/

namespace Sys2Proof.Machine

/-! ## Operations with another sound timer -/

section SetSt

variable (s : State) (b : Byte)

@[simp] theorem State.setSt_indexAddr : (s.setSt b).indexAddr = s.indexAddr := rfl
@[simp] theorem State.setSt_regsUpTo (x : RegIdx) : (s.setSt b).regsUpTo x = s.regsUpTo x := rfl

theorem State.setSt_flagOp (fl res : Byte → Byte → Byte) (x y : RegIdx) :
    (s.setSt b).flagOp fl res x y = (s.flagOp fl res x y).setSt b := by
  unfold State.flagOp
  rw [State.setSt_cfg]
  split <;> rfl

theorem State.setSt_setRegsFrom (k : Nat) (bs : List Byte) :
    (s.setSt b).setRegsFrom k bs = (s.setRegsFrom k bs).setSt b := by
  have hv : ((s.setSt b).setRegsFrom k bs).v = (s.setRegsFrom k bs).v := State.v_ext fun r => by
    rw [State.setRegsFrom_reg, State.setRegsFrom_reg, State.setSt_reg]
  rw [State.setRegsFrom_eq, hv, s.setRegsFrom_eq]
  rfl

theorem State.setSt_readBytes (a n : Nat) : (s.setSt b).readBytes a n = s.readBytes a n := by
  simp only [State.readBytes_eq, State.setSt_readByte]

theorem State.setSt_writeBytes (a : Nat) (bs : List Byte) :
    (s.setSt b).writeBytes a bs = (s.writeBytes a bs).map (·.setSt b) := by
  induction bs generalizing s a with
  | nil => rfl
  | cons v bs ih =>
    by_cases ha : a ≤ 0xFFF
    · simp only [State.writeBytes, State.memWrite_eq, if_pos ha, ← ih]
      rfl
    · simp only [State.writeBytes, State.memWrite_eq, if_neg ha, Option.map_none]

theorem State.setSt_popReturn :
    (s.setSt b).popReturn = s.popReturn.map fun (ra, u) => (ra, u.setSt b) := by
  unfold State.popReturn
  rw [State.setSt_sp]
  split <;> rfl

theorem State.setSt_pushReturn (ra : Word) :
    (s.setSt b).pushReturn ra = (s.pushReturn ra).map (·.setSt b) := by
  unfold State.pushReturn
  by_cases h : s.sp.val < 16
  · rw [dif_pos h, dif_pos (show (s.setSt b).sp.val < 16 from h)]
    rfl
  · rw [dif_neg h, dif_neg (show ¬ (s.setSt b).sp.val < 16 from h), Option.map_none]

/-- The end of a step reads ST to count it down, and nowhere else (rule R287). -/
theorem State.setSt_endOfStep : (s.setSt b).endOfStep = s.endOfStep.setSt (s.setSt b).endOfStep.st := by
  unfold State.endOfStep
  rw [State.setSt_halted, State.setSt_cfg]
  split
  · rfl
  · split <;> rfl

/-- An instruction other than LD ST, VX neither reads nor writes the sound timer. -/
theorem exec_setSt {i : Instr} (hi : ∀ x, i ≠ .ldStVx x) :
    exec i (s.setSt b) = mapNext (·.setSt b) (exec i s) := by
  cases i with
  | ldStVx x => exact absurd rfl (hi x)
  | ret =>
    simp only [exec, execRet, State.setSt_popReturn]
    cases s.popReturn <;> rfl
  | call nnn =>
    simp only [exec, execCall, State.setSt_pushReturn, State.setSt_pc]
    cases s.pushReturn (s.pc + 2) <;> rfl
  | addR | sub | shr | subn | shl | shlE =>
    exact congrArg (fun t => Host.Outcome.next t.advance) (s.setSt_flagOp b _ _ _ _)
  | drw x y n =>
    simp only [exec, execDrw, State.setSt_readBytes, State.setSt_indexAddr]
    split <;> rfl
  | ldVxK x =>
    rw [exec, exec, execLdVxK, execLdVxK, State.setSt_keys]
    split <;> rfl
  | ldB x =>
    simp only [exec, execLdB, State.setSt_writeBytes, State.setSt_indexAddr, State.setSt_reg]
    cases s.writeBytes s.indexAddr (bcdDigits (s.reg x)) <;> rfl
  | ldStore x =>
    simp only [exec, execLdStore, State.setSt_writeBytes, State.setSt_indexAddr, State.setSt_regsUpTo]
    cases s.writeBytes s.indexAddr (s.regsUpTo x) <;> rfl
  | ldLoad x =>
    simp only [exec, execLdLoad, State.setSt_readBytes, State.setSt_indexAddr, State.setSt_setRegsFrom]
    split <;> rfl
  | _ => rfl

end SetSt

/-! ## Executors, steps and runs that start with another sound timer -/

/-- Where `run` takes s to t, it takes s with another sound timer to t, but for the sound timer. -/
def SoundUnseen (run : State → Outcome) (s : State) : Prop :=
  ∀ t b, run s = .next t → ∃ c, run (s.setSt b) = .next (t.setSt c)

theorem exec_soundUnseen (i : Instr) (s : State) : SoundUnseen (exec i) s := by
  intro t b ht
  by_cases hi : ∃ x, i = .ldStVx x
  · obtain ⟨x, rfl⟩ := hi
    cases ht
    exact ⟨s.reg x, rfl⟩
  · exact ⟨b, by rw [exec_setSt s b (not_exists.mp hi), ht]; rfl⟩

theorem step_soundUnseen (s : State) : SoundUnseen step s := by
  intro t b ht
  obtain ⟨hh, hs⟩ | ⟨hh, hf, hs⟩ | ⟨op, u, hh, hf, hd, hs⟩ | ⟨op, i, hh, hf, hd, hs⟩ := step_cases s
  · cases hs.symm.trans ht
    exact ⟨b, step_of_halted (s := s.setSt b) hh⟩
  · cases hs.symm.trans ht
    exact ⟨b, step_of_fetch_eq_none (s := s.setSt b) hh hf⟩
  · cases hs.symm.trans ht
    exact ⟨_, (step_of_unrecognized (s := s.setSt b) hh hf hd).trans (congrArg _ (s.advance.setSt_endOfStep b))⟩
  · obtain ⟨v, hv, -⟩ := exec_changes i s
    obtain ⟨c, hc⟩ := exec_soundUnseen i s v b hv
    rw [hs, hv] at ht
    cases ht
    rw [step_of_fetches (s := s.setSt b) hh ⟨op, hf, hd⟩, hc]
    exact ⟨_, congrArg _ (v.setSt_endOfStep c)⟩

theorem run_soundUnseen (k : Nat) (s : State) : SoundUnseen (Host.Core.run Sys2Proof.core k) s := by
  induction k generalizing s with
  | zero =>
    rintro t b ⟨⟩
    exact ⟨b, rfl⟩
  | succ k ih =>
    intro t b ht
    obtain ⟨u, hu, -⟩ := step_changes s
    obtain ⟨c, hc⟩ := step_soundUnseen s u b hu
    rw [core_run_succ hu] at ht
    rw [core_run_succ hc]
    exact ih u t c ht

/-- What an instruction reports is told by what it writes, which is the same but for the sound timer. -/
theorem execResult_setSt (i : Instr) (s : State) (b : Byte) : execResult i (s.setSt b) = execResult i s := by
  by_cases hi : ∃ x, i = .ldVxK x
  · obtain ⟨x, rfl⟩ := hi
    rfl
  · obtain ⟨t, ht, -⟩ := exec_changes i s
    obtain ⟨c, hc⟩ := exec_soundUnseen i s t b ht
    rw [execResult_of_exec (not_exists.mp hi) hc, execResult_of_exec (not_exists.mp hi) ht]
    rfl

theorem State.stepResult_setSt (s : State) (b : Byte) : (s.setSt b).stepResult = s.stepResult := by
  have hfetch : (s.setSt b).fetch = s.fetch := rfl
  simp only [State.stepResult, hfetch, State.setSt_halted, State.setSt_err, State.setSt_cfg, execResult_setSt]

/-- Settles O56: LD ST, VX writes over the sound timer, the tick only counts it down, and nothing else touches it. -/
theorem noProgramSeesTheSoundTimer : Obligations.NoProgramSeesTheSoundTimer :=
  ⟨fun k s => run_soundUnseen k s, State.stepResult_setSt⟩

/-! ## The keypad (rule R280 to rule R283) -/

theorem State.keyPressed_iff (s : State) (code : Byte) :
    s.keyPressed code = true ↔ code.toNat ≤ 0xF ∧ s.keys.getLsbD code.toNat = true := by
  simp [State.keyPressed]

/-- Settles O42: both are skips, on whether the key is pressed and on its negation. -/
theorem skipsOnKeys : Obligations.SkipsOnKeys := by
  intro x s
  have hpressed := s.keyPressed_iff (s.reg x)
  have hreleased : (!s.keyPressed (s.reg x)) = true ↔
      ¬ ((s.reg x).toNat ≤ 0xF ∧ s.keys.getLsbD (s.reg x).toNat = true) := by rw [← hpressed]; simp
  refine ⟨decodesTo_wordXNN 0xE rfl (decodeWord_encode (i := .skp x) rfl),
    decodesTo_wordXNN 0xE rfl (decodeWord_encode (i := .sknp x) rfl), exec_skip rfl hpressed, ?_⟩
  obtain ⟨t, ht, hkeeps, hpc⟩ := exec_skip (i := .sknp x) rfl hreleased
  exact ⟨t, ht, hkeeps, hpc.trans (ite_not _ _ _)⟩

/-- FX0A with no key pressed waits (rule R283). -/
theorem exec_ldVxK_of_no_key {s : State} (x : RegIdx) (h : s.keys = 0) : exec (.ldVxK x) s = .next s := by
  rw [exec, execLdVxK, if_pos h]

/-- FX0A with keys pressed takes one of them (rule R283). -/
theorem exec_ldVxK_of_key {s : State} (x : RegIdx) (h : s.keys ≠ 0) :
    exec (.ldVxK x) s = .next ((s.setReg x s.chosenKey).countPick).advance := by
  rw [exec, execLdVxK, if_neg h]

theorem State.endOfStep_of_running {t : State} (h : t.halted = false) :
    t.endOfStep = if t.cfg.timersInStep then t.tick else t := by
  simp [State.endOfStep, h]

/-- Settles O43: a wait leaves the end of the step only; a key taken is one register write in the state that has
made one choice more. -/
theorem waitForKey : Obligations.WaitForKey := by
  intro x s
  refine ⟨decodesTo_wordXNN 0xF rfl (decodeWord_encode (i := .ldVxK x) rfl), fun hno => ?_, fun hkey => ?_⟩
  · have hwait := exec_ldVxK_of_no_key x hno
    refine ⟨hwait, fun hh hf => ⟨?_, ?_⟩⟩
    · rw [State.stepResult_of_fetches hh hf, execResult_ldVxK, if_pos hno]
    · rw [step_of_fetches hh hf, hwait, endStep, State.endOfStep_of_running hh]
  · obtain ⟨hle, hpressed⟩ := s.chosenKey_pressed hkey
    have hreg : ((s.setReg x s.chosenKey).countPick).advance.reg x = s.chosenKey := by simp
    obtain ⟨hregs, hi, hstack, htimers, hmem, hscreen, hhost, hdraws, hpicks⟩ :=
      setReg_advance_onlyRegs s.countPick x s.chosenKey
    refine ⟨_, exec_ldVxK_of_key x hkey, by rwa [hreg], by rwa [hreg], rfl, hpicks, hdraws, hregs, hi, hstack,
      htimers, hmem, hscreen, hhost, fun hh hf => ?_⟩
    rw [State.stepResult_of_fetches hh hf, execResult_ldVxK, if_neg hkey]

/-! ## The timers (rule R284 to rule R287) -/

/-- Settles O44: each copies one value and goes on. -/
theorem timerInstructions : Obligations.TimerInstructions := fun x s =>
  ⟨decodesTo_wordXNN 0xF rfl (decodeWord_encode (i := .ldVxDt x) rfl),
    decodesTo_wordXNN 0xF rfl (decodeWord_encode (i := .ldDtVx x) rfl),
    decodesTo_wordXNN 0xF rfl (decodeWord_encode (i := .ldStVx x) rfl),
    ⟨_, rfl, s.reg_setReg_advance_self x s.dt, rfl, setReg_advance_onlyRegs s x s.dt⟩,
    ⟨_, rfl, rfl, rfl, (ChangesAtMost.refl [] (s.setDt (s.reg x))).advance.onlyRegs (ws := [])⟩,
    ⟨_, rfl, rfl, rfl, (ChangesAtMost.refl [] (s.setSt (s.reg x))).advance.onlyRegs (ws := [])⟩⟩

/-- The TICK command on a running machine (rule R49). -/
theorem State.tickCommand_of_running {s : State} (h : s.halted = false) : s.tickCommand = s.tick := by
  simp [State.tickCommand, h]

/-- A step that did not halt ends with TICK's effect where TIMERS_IN_STEP (rule R104). -/
theorem next_endOfStep_of_running {t : State} (h : t.halted = false) :
    .next t.endOfStep = if t.cfg.timersInStep then Command.effect .tick t else .next t := by
  rw [State.endOfStep_of_running h, Command.effect, State.tickCommand_of_running h, apply_ite Host.Outcome.next]

/-- Settles O46: the end of a step that did not halt is TICK's effect, and no instruction writes the parameter that
says whether it runs. -/
theorem tickCountsBothTimersDown : Obligations.TickCountsBothTimersDown := by
  intro s hh
  refine ⟨by simp [Command.result, hh], ⟨s.tick, ?_, tickTimer_toNat s.dt, tickTimer_toNat s.st, rfl, ?_⟩,
    fun i t hf ht htrun => ?_, fun op hf hw => ?_⟩
  · rw [Command.effect, State.tickCommand_of_running hh]
  · exact (ChangesAtMost.refl [] s.tick).onlyRegs (ws := [])
  · have hcfg : t.cfg = s.cfg := changes_of_exec ht .params (params_notMem_footprint i)
    rw [step_of_fetches hh hf, ht, endStep, next_endOfStep_of_running htrun, hcfg]
  · obtain ⟨hstep, -⟩ := step_of_unrecognizedWord hh hf hw
    exact hstep.trans (next_endOfStep_of_running (t := s.advance) hh)

end Sys2Proof.Machine

/-! Proofs: fatal errors (O14, O15). The error that a running step raises is a function of the state. It is
exactly the one whose cause the state meets, so causes exclude each other, and it decides both the state and the
status that the step answers. -/

namespace Sys2Proof.Machine

/-! ## The error a running step raises (rule R312) -/

/-- The fatal error of an access from I on whose last byte is at the offset (rule R76). -/
def State.boundsError (s : State) (k : Nat) : Option ErrCode :=
  if 0xFFF < s.indexAddr + k then some .memBounds else none

/-- The fatal error that an instruction raises in a state. -/
def State.instrError (s : State) (i : Instr) : Option ErrCode :=
  match i with
  | .ret => if s.sp = 0 then some .stackUnderflow else none
  | .call _ => if s.sp = 16 then some .stackOverflow else none
  | i => (lastOffset i).bind s.boundsError

/-- The fatal error that a running step raises: the fetch is checked before the instruction (rule R317). -/
def State.stepError (s : State) : Option ErrCode :=
  match s.fetch with
  | none => some .fetchBounds
  | some op =>
    match decodeWord s.cfg op with
    | .error _ => none
    | .ok i => s.instrError i

section Causes

variable {s : State} {i j : Instr} {e : ErrCode} {k : Nat}

theorem State.boundsError_eq_some : s.boundsError k = some e ↔ 0xFFF < s.indexAddr + k ∧ .memBounds = e := by
  simp [State.boundsError]

theorem State.boundsError_eq_none : s.boundsError k = none ↔ s.indexAddr + k ≤ 0xFFF := by
  simp [State.boundsError]

/-- An instruction that reaches memory can only reach too far: neither RET nor CALL does. -/
theorem State.instrError_of_lastOffset (hk : lastOffset i = some k) : s.instrError i = s.boundsError k := by
  cases i with
  | ret | call => cases hk
  | _ => simp only [State.instrError, hk, Option.bind_some]

/-- Each error of an instruction is that of its own kind of instruction. -/
theorem State.instrError_eq_some :
    s.instrError i = some e ↔
      (i = .ret ∧ s.sp = 0 ∧ .stackUnderflow = e) ∨ ((∃ nnn, i = .call nnn) ∧ s.sp = 16 ∧ .stackOverflow = e) ∨
      ∃ k, lastOffset i = some k ∧ 0xFFF < s.indexAddr + k ∧ .memBounds = e := by
  cases i with
  | ret | call => simp [State.instrError, lastOffset]
  | _ => simp [State.instrError, Option.bind_eq_some_iff, State.boundsError_eq_some]

theorem State.stepError_of_fetches (hf : s.Fetches i) : s.stepError = s.instrError i := by
  obtain ⟨op, hop, hdec⟩ := hf
  simp only [State.stepError, hop, hdec]

/-- A step fetches at most one instruction. -/
theorem State.Fetches.unique (hi : s.Fetches i) (hj : s.Fetches j) : i = j := by
  obtain ⟨op, hop, hdec⟩ := hi
  obtain ⟨op', hop', hdec'⟩ := hj
  cases hop.symm.trans hop'
  cases hdec.symm.trans hdec'
  rfl

/-- A step raises a fatal error of its instruction, or cannot fetch. -/
theorem State.stepError_eq_some :
    s.stepError = some e ↔
      (0xFFE < s.pc.toNat ∧ .fetchBounds = e) ∨ ∃ i, s.Fetches i ∧ s.instrError i = some e := by
  rw [← State.fetch_eq_none]
  simp only [State.stepError, State.Fetches]
  cases hf : s.fetch with
  | none => simp
  | some op => cases hd : decodeWord s.cfg op <;> simp [hd]

/-- The causes of rule R312 are those of the error a step raises. -/
theorem State.fatalCause_iff : s.FatalCause e ↔ s.stepError = some e := by
  simp only [State.stepError_eq_some, State.instrError_eq_some]
  cases e <;> simp [State.FatalCause, State.indexAddr]

end Causes

/-! ## What an executor does, by the error it raises -/

section Executors

variable {s : State} {i : Instr} {e : ErrCode} {k : Nat}

/-- An access that reaches above 0xFFF fails before any effect (rule R76). -/
theorem exec_out_of_range (hk : lastOffset i = some k) (hr : 0xFFF < s.indexAddr + k) :
    exec i s = raiseFatal .memBounds s := by
  cases i with
  | drw x y n =>
    simp only [lastOffset, Option.ite_none_left_eq_some, Option.some.injEq] at hk
    exact exec_drw_out_of_range (by omega) (by omega)
  | ldB x =>
    cases hk
    exact exec_store_out_of_range (x := x) (bs := bcdDigits (s.reg x)) (by simp) (by simp [bcdDigits])
      (by rw [bcdDigits_length]; omega)
  | ldStore x =>
    cases hk
    have hlen := s.regsUpTo_length x
    exact exec_store_out_of_range (x := x) (bs := s.regsUpTo x) (by simp) (List.ne_nil_of_length_pos (by omega))
      (by omega)
  | ldLoad x =>
    cases hk
    exact exec_ldLoad_out_of_range hr
  | _ => cases hk

/-- The outcome is a next state in which HALTED is as it was. -/
def NextKeepsHalted (s : State) (o : Outcome) : Prop := ∃ t, o = .next t ∧ t.halted = s.halted

/-- An executor that writes parts other than HALTED and ERR. -/
theorem nextKeepsHalted_of_changes {ps : List Part} (hps : .halt ∉ ps) {o : Outcome} (h : NextChanges ps s o) :
    NextKeepsHalted s o := by
  obtain ⟨t, ho, hc⟩ := h
  exact ⟨t, ho, (hc .halt hps).1⟩

/-- A store in range raises no fatal error. -/
theorem StoresAtIndex.keepsHalted {bs : List Byte} (h : StoresAtIndex i bs s) : NextKeepsHalted s (exec i s) := by
  obtain ⟨t, ht, -, -, hc⟩ := h
  exact ⟨t, ht, (hc .halt (by simp)).1⟩

theorem exec_of_instrError_eq_some (h : s.instrError i = some e) : exec i s = raiseFatal e s := by
  obtain ⟨rfl, hsp, rfl⟩ | ⟨⟨nnn, rfl⟩, hsp, rfl⟩ | ⟨k, hk, hr, rfl⟩ := State.instrError_eq_some.mp h
  · exact exec_ret_of_empty hsp
  · exact exec_call_of_full nnn hsp
  · exact exec_out_of_range hk hr

theorem exec_of_instrError_eq_none (h : s.instrError i = none) : NextKeepsHalted s (exec i s) := by
  have hin : ∀ k, lastOffset i = some k → s.indexAddr + k ≤ 0xFFF := fun k hk =>
    State.boundsError_eq_none.mp ((State.instrError_of_lastOffset hk).symm.trans h)
  cases i with
  | ret =>
    have hsp : s.sp ≠ 0 := by simpa [State.instrError] using h
    obtain ⟨t, ht, -, -, hc⟩ := exec_ret_of_pos (Fin.pos_iff_ne_zero.mpr hsp)
    exact nextKeepsHalted_of_changes (by simp) ⟨t, ht, hc⟩
  | call nnn =>
    have hsp : s.sp ≠ 16 := by simpa [State.instrError] using h
    obtain ⟨t, ht, -, -, -, hc⟩ := exec_call_of_room nnn (s := s) (by omega)
    exact nextKeepsHalted_of_changes (by simp) ⟨t, ht, hc⟩
  | drw x y n =>
    have hn : n.val = 0 ∨ s.indexAddr + n.val - 1 ≤ 0xFFF := by
      by_cases h0 : n.val = 0
      · exact .inl h0
      · have := hin (n.val - 1) (if_neg h0)
        omega
    exact ⟨_, exec_drw_in_range hn, rfl⟩
  | ldB x => exact (ldB_storesAtIndex (hin 2 rfl)).keepsHalted
  | ldStore x => exact (ldStore_storesAtIndex (hin x.val rfl)).keepsHalted
  | ldLoad x =>
    obtain ⟨t, ht, -, -, hc⟩ := exec_ldLoad_spec (hin x.val rfl)
    exact nextKeepsHalted_of_changes (by simp) ⟨t, ht, hc⟩
  | _ => exact nextKeepsHalted_of_changes (by simp [writtenParts]) (exec_changes _ s)

/-- An instruction that raised a fatal error reports it: FX0A raises none (rule R311). -/
theorem execResult_of_instrError_eq_some (h : s.instrError i = some e) : execResult i s = .fatal e := by
  have hk : ∀ x, i ≠ .ldVxK x := by
    rintro x rfl
    cases h
  exact execResult_of_exec hk (exec_of_instrError_eq_some h)

/-- An instruction that did not halt reports no fatal error. -/
theorem execResult_ne_fatal {t : State} (h : exec i s = .next t) (ht : t.halted = false) :
    execResult i s ≠ .fatal e := by
  by_cases hk : ∃ x, i = .ldVxK x
  · obtain ⟨x, rfl⟩ := hk
    rw [execResult_ldVxK]
    split <;> nofun
  · rw [execResult_of_exec (not_exists.mp hk) h, ht]
    nofun

end Executors

/-! ## What a running step does, by the error it raises -/

section Steps

variable {s : State} {e : ErrCode}

@[simp] theorem State.endOfStep_halted (t : State) : t.endOfStep.halted = t.halted := by
  obtain ⟨-, h⟩ | ⟨-, -, h⟩ | ⟨-, -, h⟩ := t.endOfStep_cases <;> simp [h]

/-- A step that raises a fatal error sets HALTED and ERR and reports it (rule R311). -/
theorem step_of_stepError_eq_some (hh : s.halted = false) (h : s.stepError = some e) :
    step s = .next (s.halt e) ∧ s.stepResult = .fatal e := by
  obtain ⟨hpc, rfl⟩ | ⟨i, hf, hi⟩ := State.stepError_eq_some.mp h
  · have hf := s.fetch_eq_none.mpr hpc
    exact ⟨step_of_fetch_eq_none hh hf, by rw [State.stepResult_of_fetch_eq_none hf, hh]; rfl⟩
  · constructor
    · rw [step_of_fetches hh hf, exec_of_instrError_eq_some hi]
      rfl
    · rw [State.stepResult_of_fetches hh hf, execResult_of_instrError_eq_some hi]

/-- A step that raises none goes on running and reports none. -/
theorem step_of_stepError_eq_none (hh : s.halted = false) (h : s.stepError = none) :
    (∃ t, step s = .next t ∧ t.halted = false) ∧ ∀ e, s.stepResult ≠ .fatal e := by
  obtain ⟨hhalt, -⟩ | ⟨-, hf, -⟩ | ⟨op, u, -, hf, hd, hs⟩ | ⟨op, i, -, hf, hd, hs⟩ := step_cases s
  · cases hh.symm.trans hhalt
  · simp [State.stepError, hf] at h
  · exact ⟨⟨_, hs, s.advance.endOfStep_halted.trans hh⟩, by simp [State.stepResult, hh, hf, hd]⟩
  · have hfetches : s.Fetches i := ⟨op, hf, hd⟩
    obtain ⟨t, ht, hkeep⟩ := exec_of_instrError_eq_none ((State.stepError_of_fetches hfetches).symm.trans h)
    have htrun := hkeep.trans hh
    refine ⟨⟨_, by rw [hs, ht]; rfl, t.endOfStep_halted.trans htrun⟩, fun e => ?_⟩
    rw [State.stepResult_of_fetches hh hfetches]
    exact execResult_ne_fatal ht htrun

end Steps

/-! ## The statements -/

/-- Settles O14: a step that halts raised an error, and NONE has no cause. -/
theorem fatalStepChangesOnlyHaltState : Obligations.FatalStepChangesOnlyHaltState := by
  intro s t hh hst ht
  cases he : s.stepError with
  | none =>
    obtain ⟨⟨u, hu, hrun⟩, -⟩ := step_of_stepError_eq_none hh he
    cases hst.symm.trans hu
    cases ht.symm.trans hrun
  | some e =>
    obtain ⟨hu, hres⟩ := step_of_stepError_eq_some hh he
    cases hst.symm.trans hu
    refine ⟨rfl, ?_, hres⟩
    rintro rfl
    exact State.fatalCause_iff.mpr he

/-- Settles O15: the step's one error decides what it answers, and has the one cause that holds. -/
theorem stepHaltsExactlyForTheseCauses : Obligations.StepHaltsExactlyForTheseCauses := by
  intro s e hh
  simp only [State.fatalCause_iff]
  rw [← and_assoc]
  refine ⟨?_, fun e' h h' => Option.some.inj (h.symm.trans h')⟩
  cases he : s.stepError with
  | none =>
    obtain ⟨⟨u, hu, hrun⟩, hres⟩ := step_of_stepError_eq_none hh he
    simp [hu, hrun, hres]
  | some c =>
    obtain ⟨hu, hres⟩ := step_of_stepError_eq_some hh he
    simp [hu, hres]

end Sys2Proof.Machine

/-! Proofs: reset and hazards (O45, O58, O60). A timer instruction raises no error, so its step is its executor
and one tick; an image up to the largest size is one store at 0x200; the word that memory holds there after RESET is
one of rule R118, and a tick leaves timers that are 0. -/

namespace Sys2Proof.Machine

/-! ## A step that ticks (rule R104, rule R351) -/

/-- With TIMERS_IN_STEP a step whose instruction raises no error ends with one tick. -/
theorem step_eq_tick {s t : State} {i : Instr} (hh : s.halted = false) (hon : s.cfg.timersInStep = true)
    (hf : s.Fetches i) (he : exec i s = .next t) (ht : t.halted = false) : step s = .next t.tick := by
  have hcfg : t.cfg = s.cfg := changes_of_exec he .params (params_notMem_footprint i)
  rw [step_of_fetches hh hf, he, endStep, State.endOfStep_of_running ht, hcfg, if_pos hon]

/-- Settles O45: the tick counts down what the instruction left. -/
theorem timerStepsTickAfterTheInstruction : Obligations.TimerStepsTickAfterTheInstruction := fun x s hh hon =>
  ⟨fun hf => ⟨_, step_eq_tick hh hon hf rfl hh, tickTimer_toNat (s.reg x), tickTimer_toNat s.st⟩,
    fun hf => ⟨_, step_eq_tick hh hon hf rfl hh, tickTimer_toNat (s.reg x), tickTimer_toNat s.dt⟩,
    fun hf => ⟨_, step_eq_tick hh hon hf rfl hh, s.reg_setReg_advance_self x s.dt, tickTimer_toNat s.dt⟩⟩

/-! ## LOAD, by whether the image fits (rule R345, rule R346) -/

theorem State.load_of_too_large {s : State} {bs : List Byte} (h : maxImage < bs.length) : s.load bs = s :=
  if_pos h

/-- An image that fits is stored at 0x200. -/
theorem State.writeBytes_eq_load (s : State) {bs : List Byte} (h : bs.length ≤ maxImage) :
    s.writeBytes 0x200 bs = some (s.load bs) := by
  have hfits : 0x200 + bs.length ≤ 0x1000 := Nat.add_le_add_left h 0x200
  obtain ⟨t, ht⟩ := s.exists_writeBytes hfits
  rw [State.load, if_neg (Nat.not_lt.mpr h), ht, Option.getD_some]

/-- Settles O58: what LOAD does is what a store at 0x200 does, and too large an image is not stored. -/
theorem loadCopiesOrRefuses : Obligations.LoadCopiesOrRefuses := by
  intro s bs
  refine ⟨fun hlarge => ⟨?_, if_pos hlarge⟩,
    fun hfits => ⟨if_neg (Nat.not_lt.mpr hfits), s.load bs, rfl, s.load_eq bs, ?_⟩⟩
  · rw [Command.effect, State.load_of_too_large hlarge]
  · exact State.readByte_of_writeBytes (s.writeBytes_eq_load hfits)

/-! ## A step before any LOAD (rule R342) -/

/-- Memory that lists nothing holds zeros above FONT, at 0x200 too (rule R57). -/
theorem State.fetch_resetWith (cfg : Config) (n k : Nat) : (State.resetWith cfg n k).fetch = some 0 := by
  have hpc : (State.resetWith cfg n k).pc.toNat = 0x200 := rfl
  have hzero : ∀ a, 80 ≤ a → (State.resetWith cfg n k).readByte a = 0 := fun a ha =>
    (State.readByte_resetWith cfg n k a).trans (dif_neg (by omega))
  rw [State.fetch_eq_some _ (by omega), hpc, hzero _ (by omega), hzero _ (by omega)]
  rfl

theorem unrecognizedWord_zero (cfg : Config) : UnrecognizedWord cfg 0 := .inl (by decide)

/-- The end of a step leaves timers that are 0 (rule R287). -/
theorem State.endOfStep_of_timers_zero {t : State} (hdt : t.dt = 0) (hst : t.st = 0) : t.endOfStep = t := by
  have htick : t.tick = t := calc
    t.tick = (t.setDt t.dt).setSt t.st := by
      rw [State.tick, hdt, hst]
      rfl
    _ = t := rfl
  obtain ⟨-, h⟩ | ⟨-, -, h⟩ | ⟨-, -, h⟩ := t.endOfStep_cases
  · exact h
  · exact h
  · exact h.trans htick

/-- Settles O60: the word 0 selects no executor, so the step goes on, and both timers are 0. -/
theorem stepBeforeLoadIsUnrecognized : Obligations.StepBeforeLoadIsUnrecognized := by
  intro cfg n k
  have hf := State.fetch_resetWith cfg n k
  obtain ⟨hstep, hres⟩ := step_of_unrecognizedWord rfl hf (unrecognizedWord_zero cfg)
  rw [State.endOfStep_of_timers_zero rfl rfl] at hstep
  exact ⟨hf, hres, hstep⟩

end Sys2Proof.Machine
